-- ==== Sys2Proof/Word.lean ====
section
/-! DEFINITION. The word types of the block (00_scope.md R6, R8, R9): plain bit patterns, bit 0 least significant. -/

namespace Sys2Proof

/-- One byte: a CRC input byte, an immediate, one ASCII digit. -/
abbrev Byte := BitVec 8

/-- One 32-bit register word; also one bus data word (R6, R62). -/
abbrev Word := BitVec 32

/-- One 64-bit register (`SEED`, `RESULT`, `CTR`, `TIME_S`; R6). -/
abbrev DWord := BitVec 64

/-- A byte offset within the 64-byte register window (20_memory.md R60). -/
abbrev Offset := BitVec 6

end Sys2Proof
end

