-- ==== Sys2Proof/Syntax.lean ====
section
/-! DEFINITION. The commands of the block: one constructor per row of spec/opcode_table.json (30_encoding.md R94). -/

namespace Sys2Proof

/-- The ten commands. Operands that a command takes from registers (`SEED`, `MIN`, `MAX`) are not in the word (R92). -/
inductive Instr where
  /-- `NOP`, 43_snapshot_and_control.md R194. -/
  | nop
  /-- `SEED_INT`, 40_seeding.md R122. -/
  | seedInt
  /-- `SEED_TIME`, 40_seeding.md R125. -/
  | seedTime
  /-- `HASH_START`, 41_hash.md R147. -/
  | hashStart
  /-- `HASH_BYTE b`, 41_hash.md R148: `b` is `IMM` (R95). -/
  | hashByte (b : Byte)
  /-- `SEED_HASH`, 40_seeding.md R128. -/
  | seedHash
  /-- `NEXT_INT`, 42_generation.md R167. -/
  | nextInt
  /-- `NEXT_BYTE R`, 42_generation.md R169: `readable` is the bit `R = IMM[0]` (R96). -/
  | nextByte (readable : Bool)
  /-- `SAVE`, 43_snapshot_and_control.md R190. -/
  | save
  /-- `RESTORE`, 43_snapshot_and_control.md R191. -/
  | restore
  deriving DecidableEq, Repr

end Sys2Proof
end

