-- ==== Sys2Proof/WellFormed.lean ====
section
/-! DEFINITION. When a command word is legal, written from 30_encoding.md R97 condition by condition (apart from the
decoder, which follows R100), and when a command is well formed. -/

namespace Sys2Proof

/-- R97, first condition: `RSVD ≠ 0` makes a word illegal. -/
def rsvdClear (w : Word) : Bool := w.toNat / 2 ^ 16 == 0

/-- R97, second condition: `OPC ≥ 0x0A` makes a word illegal. -/
def opcDefined (w : Word) : Bool := decide (w.toNat % 2 ^ 8 < 0x0A)

/-- R97, third condition: `IMM ≠ 0` makes a word illegal unless `OPC` is 0x04 or 0x07. -/
def immUnused (w : Word) : Bool :=
  w.toNat % 2 ^ 8 == 0x04 || w.toNat % 2 ^ 8 == 0x07 || w.toNat / 2 ^ 8 % 2 ^ 8 == 0

/-- R97, fourth condition: `OPC = 0x07` with `w[15:9] ≠ 0` is illegal. -/
def readableBitOnly (w : Word) : Bool := !(w.toNat % 2 ^ 8 == 0x07) || w.toNat / 2 ^ 9 % 2 ^ 7 == 0

/-- A command word is legal when none of R97's four conditions holds. -/
def legalWord (w : Word) : Bool := rsvdClear w && opcDefined w && immUnused w && readableBitOnly w

/-- A command is well formed. The operand types (`Byte`, `Bool`) hold exactly the values R95 and R96 accept, so that an
ill-formed command cannot be built: what can be ill formed is a WORD (`legalWord`) or a bus access
(`Machine.legalAccess`). -/
def Instr.wellFormed : Instr → Bool
  | .nop | .seedInt | .seedTime | .hashStart | .seedHash | .nextInt | .save | .restore => true
  | .hashByte b => decide (b.toNat < 2 ^ 8)
  | .nextByte r => decide (r.toNat < 2)

end Sys2Proof
end

