-- ==== Sys2Proof/Decode.lean ====
section
/-! DEFINITION. The command decoder (30_encoding.md R90-R100), total on all 2^32 words and rejecting by name, and the
encoder written from the opcode map R94. -/

namespace Sys2Proof

/-- `OPC = w[7:0]` (R90, R91). -/
def opcField (w : Word) : Byte := w.extractLsb' 0 8

/-- `IMM = w[15:8]` (R90, R92). -/
def immField (w : Word) : Byte := w.extractLsb' 8 8

/-- `RSVD = w[31:16]` (R90, R93). -/
def rsvdField (w : Word) : BitVec 16 := w.extractLsb' 16 16

/-- Why a word is no command: the condition of R97 that makes it illegal. -/
inductive DecodeReject where
  /-- `RSVD ≠ 0`. -/
  | rsvdNotZero
  /-- `OPC ≥ 0x0A`. -/
  | reservedOpcode
  /-- `IMM ≠ 0` with an opcode that takes no immediate. -/
  | immNotZero
  /-- `NEXT_BYTE` with `w[15:9] ≠ 0`. -/
  | readableBits
  deriving DecidableEq, Repr

/-- R94, the rows whose `IMM` must be 0. -/
def decodeOpcode (opc : Byte) : Except DecodeReject Instr :=
  match opc.toNat with
  | 0x00 => .ok .nop
  | 0x01 => .ok .seedInt
  | 0x02 => .ok .seedTime
  | 0x03 => .ok .hashStart
  | 0x05 => .ok .seedHash
  | 0x06 => .ok .nextInt
  | 0x08 => .ok .save
  | 0x09 => .ok .restore
  | _ => .error .reservedOpcode

/-- R100 `Decode(w)`, check by check in its order. -/
def decode (w : Word) : Except DecodeReject Instr :=
  if rsvdField w ≠ 0 then .error .rsvdNotZero
  else if opcField w = 0x04 then .ok (.hashByte (immField w))
  else if opcField w = 0x07 then
    if (immField w).extractLsb' 1 7 = 0 then .ok (.nextByte ((immField w).getLsbD 0)) else .error .readableBits
  else if immField w ≠ 0 then .error .immNotZero
  else decodeOpcode (opcField w)

/-- R94, the column `OPC`. -/
def Instr.opc : Instr → Byte
  | .nop => 0x00
  | .seedInt => 0x01
  | .seedTime => 0x02
  | .hashStart => 0x03
  | .hashByte _ => 0x04
  | .seedHash => 0x05
  | .nextInt => 0x06
  | .nextByte _ => 0x07
  | .save => 0x08
  | .restore => 0x09

/-- R94, the column `IMM` use (R92, R95, R96). -/
def Instr.imm : Instr → Byte
  | .nop | .seedInt | .seedTime | .hashStart | .seedHash | .nextInt | .save | .restore => 0
  | .hashByte b => b
  | .nextByte r => (BitVec.ofBool r).setWidth 8

/-- The command word `{RSVD = 0, IMM, OPC}` (R90). -/
def encode (i : Instr) : Word := (0 : BitVec 16) ++ i.imm ++ i.opc

/-- The instruction the decoder reads from a table row's bits (log entry 20). -/
def decodeTableWord (nbits w : Nat) : Option Instr :=
  if nbits ≤ 32 then
    match decode (BitVec.ofNat 32 (w % 2 ^ nbits)) with
    | .ok i => some i
    | .error _ => none
  else none

end Sys2Proof
end

