-- ==== Sys2Proof/Machine/State.lean ====
section
/-! DEFINITION. The state of the block (10_state.md R20), of its inputs (R43, 70_reset_and_hazards.md R240), of its host
(00_scope.md R14, R16), and the state after reset (R42). Plain data throughout. -/

namespace Sys2Proof.Machine

/-- The sixteen register words of the window, in offset order (20_memory.md R61). -/
inductive RegName where
  | cmd | status | seedLo | seedHi | min | max | resultLo | resultHi
  | state | saved | ctrLo | ctrHi | incr | hash | errInfo | reserved
  deriving DecidableEq, Repr

/-- The error codes that are ever produced, by name (60_exceptions.md R211, codes 1 to 6). -/
inductive ErrorCode where
  | illegal | busy | unseeded | range | seedRange | ctrOvf
  deriving DecidableEq, Repr

/-- One act of the host's program (00_scope.md R14; 30_encoding.md R101). An access names an offset and a width in bits
(20_memory.md R60, R62). -/
inductive HostAct where
  /-- `RegRead(off)` with a bus access of `width` bits. -/
  | read (off : Offset) (width : Nat)
  /-- `RegWrite(off, v)` with a bus access of `width` bits. -/
  | write (off : Offset) (width : Nat) (v : Word)
  /-- `WAIT`: poll `STATUS` until `BUSY = 0` (R72). -/
  | wait
  /-- `RESET`: the atomic event on the input `RST` (R101, R240). -/
  | reset
  /-- `RST` is asserted and stays so (R240). -/
  | assertRst
  /-- `RST` is released (R240). -/
  | releaseRst
  /-- The platform removes the block's power and brings it back (60_exceptions.md R227; log entry 23). -/
  | powerCycle
  deriving DecidableEq, Repr

/-- What the outside of the block does at one step beside the host's act: whether the command engine acts at this step
(the open `CMD_LATENCY`, R252), and what the input `TIME_S` shows (R127). -/
structure Turn where
  engine : Bool
  timeS : DWord
  deriving DecidableEq, Repr

/-- The whole machine: the block's registers, its two inputs, its host, and the count of free values drawn. -/
structure State where
  /-- `STATE`, the LCG value (R23). -/
  state : Word
  /-- `INCR`, the increment of the most recent draw (R26). -/
  incr : Word
  /-- `CTR`, the draw counter (R27). -/
  ctr : DWord
  /-- `SAVED`, the snapshot (R29). -/
  saved : Word
  /-- `SAVED_VALID`, `STATUS[2]` (R29). -/
  savedValid : Bool
  /-- `SEEDED`, `STATUS[1]` (R30). -/
  seeded : Bool
  /-- `HACC`, the CRC accumulator of the host path (R31). -/
  hacc : Word
  /-- `SEED`, the integer seed operand (R32). -/
  seed : DWord
  /-- `MIN` (R33). -/
  minReg : Word
  /-- `MAX` (R33). -/
  maxReg : Word
  /-- `RESULT` (R34). -/
  result : DWord
  /-- `ERR_CODE`, `STATUS[11:8]` (R36). -/
  errCode : BitVec 4
  /-- `ERR_INFO` (R36). -/
  errInfo : Word
  /-- `BUSY`, `STATUS[0]` (R37). -/
  busy : Bool
  /-- `PEND`, the accepted command word, hidden (R37). -/
  pend : Word
  /-- `PEND_T`, the time sample of an accepted `SEED_TIME`, hidden (R37). -/
  pendT : DWord
  /-- The block has lost its state with its power and has not been reset since (60_exceptions.md R227, R243). -/
  lost : Bool
  /-- The level of the input `RST` (R240). -/
  rst : Bool
  /-- The value on the input `TIME_S` at this step (R43, R127): an input, not a register. -/
  timeS : DWord
  /-- The host's program: what it has still to do, in program order (R73). -/
  host : List HostAct
  /-- The turns still to come, one a step (log entry 1). -/
  env : List Turn
  /-- The words the host's reads have returned, newest first (log entry 11). -/
  reads : List Word
  /-- The recorded `BusFault(off)`s, newest first; never cleared (R63, R217). -/
  busFaults : List Offset
  /-- The model's own count of free values drawn (log entry 17). -/
  free : Nat
  deriving DecidableEq, Repr

/-- Why a step can stop with a fault. -/
inductive Fault where
  /-- Raised by a completion whose `PEND` holds no legal word. R70 accepts legal words only, so no run from reset reaches
  it (log entry 12). Safe. -/
  | illegalPending
  deriving DecidableEq, Repr

/-- Why a step can be refused. -/
inductive Refusal where
  /-- Raised by an arm of `exec` without a meaning; no arm is left without one. Safe. -/
  | notModelled (mnemonic : String)
  deriving DecidableEq, Repr

/-- The machine right after reset (R42): `HACC` all ones, `MAX` 255, everything else the block holds 0. `PEND`, `PEND_T`
(log entry 4), `TIME_S` (log entry 2) and `free` (log entry 17) have no value in the spec. No program, no turn. -/
def State.reset : State where
  state := 0
  incr := 0
  ctr := 0
  saved := 0
  savedValid := false
  seeded := false
  hacc := 0xFFFFFFFF
  seed := 0
  minReg := 0
  maxReg := 0x000000FF
  result := 0
  errCode := 0
  errInfo := 0
  busy := false
  pend := 0
  pendT := 0
  lost := false
  rst := false
  timeS := 0
  host := []
  env := []
  reads := []
  busFaults := []
  free := 0

end Sys2Proof.Machine
end

