-- ==== Sys2Proof/Machine/Flags.lean ====
section
/-! DEFINITION. The status word (10_state.md R35): its flags and their places. No command computes an arithmetic flag
(42_generation.md R162: "No flag exists"). -/

namespace Sys2Proof.Machine

/-- The four bits of an error code (60_exceptions.md R211). -/
def ErrorCode.bits : ErrorCode → BitVec 4
  | .illegal => 1
  | .busy => 2
  | .unseeded => 3
  | .range => 4
  | .seedRange => 5
  | .ctrOvf => 6

/-- `STATUS` from its fields: bit 0 `BUSY`, 1 `SEEDED`, 2 `SAVED_VALID`, 11:8 `ERR_CODE`, every other bit 0 (R35). -/
def statusOf (busy seeded savedValid : Bool) (errCode : BitVec 4) : Word :=
  (0 : BitVec 20) ++ errCode ++ (0 : BitVec 5) ++ BitVec.ofBool savedValid ++ BitVec.ofBool seeded ++
    BitVec.ofBool busy

/-- `STATUS` with every flag at its present value. -/
def statusWord (s : State) : Word := statusOf s.busy s.seeded s.savedValid s.errCode

end Sys2Proof.Machine
end

