-- ==== Sys2Proof/Machine/Hash.lean ====
section
/-! DEFINITION. The CRC-32 function and the decimal strings it is applied to (41_hash.md R141-R146). Pure functions: the
draw path holds no state (R140), and the table is a constant (R39, R142). -/

namespace Sys2Proof.Machine

/-- `CRC_POLY`, reflected (00_scope.md R6). -/
def crcPoly : Word := 0xEDB88320

/-- `fold(v)` (R141). -/
def crcFold (v : Word) : Word := if v.getLsbD 0 then crcPoly ^^^ (v >>> 1) else v >>> 1

/-- `n` rounds of `fold`. -/
def crcFolds : Nat → Word → Word
  | 0, v => v
  | n + 1, v => crcFolds n (crcFold v)

/-- The table entry `T[n]`: eight rounds on the index (R141). -/
def crcTable (n : Byte) : Word := crcFolds 8 (n.setWidth 32)

/-- `crc_update(c, b)` (R143): the index is the low byte of `c ^ zext_32(b)`. -/
def crcUpdate (c : Word) (b : Byte) : Word := crcTable ((c ^^^ b.setWidth 32).extractLsb' 0 8) ^^^ (c >>> 8)

/-- The initial register value of CRC-32/ISO-HDLC and the reset value of `HACC` (R145, R147). -/
def crcInit : Word := 0xFFFFFFFF

/-- Folds a byte string into a register, first byte first (R145). -/
def crcFeed : Word → List Byte → Word
  | c, [] => c
  | c, b :: bs => crcFeed (crcUpdate c b) bs

/-- The final exclusive-or with all ones: what `HASH` reads of `HACC` (R145, R149). -/
def crcFinal (c : Word) : Word := c ^^^ 0xFFFFFFFF

/-- `hash32(s)` (R145). -/
def hash32 (s : List Byte) : Word := crcFinal (crcFeed crcInit s)

/-- The ASCII byte of a decimal digit (R146). -/
def digitByte (d : Nat) : Byte := BitVec.ofNat 8 (0x30 + d)

/-- The decimal digits of `n`, most significant first, put before `acc`; `fuel` bounds the digits. -/
def decDigits : Nat → Nat → List Byte → List Byte
  | 0, _, acc => acc
  | fuel + 1, n, acc =>
    if n / 10 = 0 then digitByte (n % 10) :: acc else decDigits fuel (n / 10) (digitByte (n % 10) :: acc)

/-- `dec(n)` (R146): no sign, no leading zeros; `dec(0)` is the byte 0x30. -/
def dec (n : Nat) : List Byte := decDigits (n + 1) n []

end Sys2Proof.Machine
end

