-- ==== Sys2Proof/Config.lean ====
section
/-! DEFINITION. What a platform fixes and the free values: constants WITHOUT a body, so that nothing can be proved of
their values (00_scope.md R7; 93_implementation_defined.md I6, I9, I10, I12). -/

namespace Sys2Proof

/-- The window's base address on the host bus, the platform's (20_memory.md R79, I12). -/
opaque Config.base : Nat

/-- What a read that R68 leaves unspecified returns: the n-th free word (I9). -/
opaque Config.freeWord : Nat → Word

/-- Whether the n-th `STATUS` read while `BUSY = 1` shows `SEEDED` as after the pending command (I10). -/
opaque Config.seededReadsAfter : Nat → Bool

/-- Whether the n-th `STATUS` read while `BUSY = 1` shows `SAVED_VALID` as after the pending command (I10). -/
opaque Config.savedValidReadsAfter : Nat → Bool

/-- What the input `TIME_S` shows at a step for which the environment's list gives no value: the n-th free time
(40_seeding.md R127, I6). -/
opaque Config.freeTime : Nat → DWord

end Sys2Proof
end

