-- ==== Sys2Proof/Machine/Operands.lean ====
section
/-! DEFINITION. Where commands and bus accesses find their operands: the window's offsets, the two halves of a 64-bit
register, the signed operand registers, the two ranges of `NEXT_BYTE`. -/

namespace Sys2Proof.Machine

/-- The byte offset of a register word (20_memory.md R61). -/
def RegName.offset : RegName → Offset
  | .cmd => 0x00
  | .status => 0x04
  | .seedLo => 0x08
  | .seedHi => 0x0C
  | .min => 0x10
  | .max => 0x14
  | .resultLo => 0x18
  | .resultHi => 0x1C
  | .state => 0x20
  | .saved => 0x24
  | .ctrLo => 0x28
  | .ctrHi => 0x2C
  | .incr => 0x30
  | .hash => 0x34
  | .errInfo => 0x38
  | .reserved => 0x3C

/-- The register word an aligned offset reaches (R61). -/
def RegName.ofOffset (off : Offset) : RegName :=
  match off.toNat / 4 with
  | 0 => .cmd
  | 1 => .status
  | 2 => .seedLo
  | 3 => .seedHi
  | 4 => .min
  | 5 => .max
  | 6 => .resultLo
  | 7 => .resultHi
  | 8 => .state
  | 9 => .saved
  | 10 => .ctrLo
  | 11 => .ctrHi
  | 12 => .incr
  | 13 => .hash
  | 14 => .errInfo
  | _ => .reserved

/-- The host-bus address of an offset (R79). -/
def busAddress (off : Offset) : Nat := Config.base + off.toNat

/-- An access the bus does not answer with an error: 32 bits wide at a word-aligned offset (R62). -/
def legalAccess (off : Offset) (width : Nat) : Bool := off.toNat % 4 == 0 && width == 32

/-- Bits 31:0 of a 64-bit register, its `_LO` word (R64). -/
def loHalf (d : DWord) : Word := d.extractLsb' 0 32

/-- Bits 63:32 of a 64-bit register, its `_HI` word (R64). -/
def hiHalf (d : DWord) : Word := d.extractLsb' 32 32

/-- Replaces bits 31:0. -/
def setLoHalf (v : Word) (d : DWord) : DWord := hiHalf d ++ v

/-- Replaces bits 63:32. -/
def setHiHalf (v : Word) (d : DWord) : DWord := v ++ loHalf d

/-- `s(SEED)`, in `[-2^63, 2^63)` (40_seeding.md R122). -/
def seedValue (s : State) : Int := s.seed.toInt

/-- `s(MIN)` (10_state.md R33). -/
def minValue (s : State) : Int := s.minReg.toInt

/-- `s(MAX)` (10_state.md R33). -/
def maxValue (s : State) : Int := s.maxReg.toInt

/-- The lower end of `NEXT_BYTE`'s range (42_generation.md R169). -/
def byteLo (readable : Bool) : Int := if readable then 32 else 0

/-- The upper end of `NEXT_BYTE`'s range (R169). -/
def byteHi (readable : Bool) : Int := if readable then 126 else 255

end Sys2Proof.Machine
end

