-- ==== Sys2Proof/Machine/RangeMap.lean ====
section
/-! DEFINITION. The range mapping of a draw: binary64 arithmetic as exact integer arithmetic (00_scope.md R13,
42_generation.md R164). It holds no state (10_state.md R41). -/

namespace Sys2Proof.Machine

/-- `bitlength(a) = floor(log2 a) + 1`, for `a > 0` (R13). -/
def bitLength (a : Nat) : Nat := Nat.log2 a + 1

/-- Drops the low `e` bits of `a`, to nearest and ties to even: the rounded quotient `q` (R13). -/
def roundQuotient (a e : Nat) : Nat :=
  let q := a / 2 ^ e
  let r := a % 2 ^ e
  let h := 2 ^ (e - 1)
  if r > h ∨ (r = h ∧ q % 2 = 1) then q + 1 else q

/-- `rne53(N)` (R13): `N` rounded to 53 significant bits, to nearest, ties to even. -/
def rne53 (n : Int) : Int :=
  let a := n.natAbs
  if a < 2 ^ 53 then n
  else
    let e := bitLength a - 53
    n.sign * (roundQuotient a e * 2 ^ e : Nat)

/-- `map(s, lo, hi)` (R164): divide, multiply, add, floor, in the formula's order. -/
def mapRange (s : Nat) (lo hi : Int) : Int :=
  let r := hi - lo + 1
  let n1 := rne53 (s * r)
  let n2 := rne53 (n1 + lo * 2 ^ 32)
  n2 / 2 ^ 32

end Sys2Proof.Machine
end

