-- ==== Sys2Proof/Machine/Ops.lean ====
section
/-! DEFINITION. The shared operations: recording an error, the gate every write passes, acceptance and completion of a
command, the reset event, seeding and drawing. -/

namespace Sys2Proof.Machine

/-- `raise Error(code, info)` (60_exceptions.md R214). The block has no trap entry (R218): the record is the error's only
effect, and only the first error since reset is recorded (R215). -/
def raiseError (e : ErrorCode) (info : Word) (s : State) : State :=
  if s.errCode = 0 then { s with errCode := e.bits, errInfo := info } else s

/-- `raise BusFault(off)` (20_memory.md R63, 60_exceptions.md R217): recorded, never cleared; no register changes. -/
def raiseBusFault (off : Offset) (s : State) : State := { s with busFaults := off :: s.busFaults }

/-- The event on `RST` (70_reset_and_hazards.md R240, R241): every register of the block at its reset value, a pending
command discarded, no time sample taken. The inputs, the host and the recorded bus faults are not the block's registers
(log entries 7, 9). There is no trap return: this is the only way out of the error state (60_exceptions.md R219). -/
def resetBlock (s : State) : State :=
  { State.reset with
    rst := s.rst, timeS := s.timeS, host := s.host, env := s.env, reads := s.reads, busFaults := s.busFaults,
    free := s.free }

/-- The platform removes the power and brings it back (60_exceptions.md R227): all state of the block is lost, so every
register holds a free value, and the block must be reset before use (70_reset_and_hazards.md R243). The inputs, the host and
its records are not the block's (log entry 23). -/
def loseState (s : State) : State :=
  let w (k : Nat) : Word := Config.freeWord (s.free + k)
  { s with
    state := w 0, incr := w 1, ctr := w 2 ++ w 3, saved := w 4, savedValid := (w 5).getLsbD 0
    seeded := (w 6).getLsbD 0, hacc := w 7, seed := w 8 ++ w 9, minReg := w 10, maxReg := w 11, result := w 12 ++ w 13
    errCode := (w 14).extractLsb' 0 4, errInfo := w 15, busy := (w 16).getLsbD 0, pend := w 17, pendT := w 18 ++ w 19
    lost := true, free := s.free + 20 }

/-- The block as power-up leaves it, before its first reset (R243). -/
def State.powerUp : State := loseState State.reset

/-- The block serves accesses by its rules: `RST` is released (R240), and it has been reset since its power came (R227,
R243). -/
def State.serves (s : State) : Bool := !s.rst && !s.lost

/-- The gate of a write to `CMD` or to an operand register at `off`: ignored while `RST` is asserted (R240), of no effect
that outlasts the reset it needs while the block's state is lost (log entry 23), dropped with code 2 while `BUSY = 1`
(20_memory.md R66, R67). -/
def whenWritable (off : Offset) (s : State) (k : State → State) : State :=
  if s.serves then if s.busy then raiseError .busy (off.setWidth 32) s else k s else s

/-- The gate of a command word: that of a write to `CMD`, then ignored while an error is recorded (R70 `Accept`, R215). -/
def whenCommandable (s : State) (k : State → State) : State :=
  whenWritable RegName.cmd.offset s fun s => if s.errCode ≠ 0 then s else k s

/-- R70: `PEND <- w ; BUSY <- 1`; an accepted `SEED_TIME` samples `TIME_S` into `PEND_T` (R37, R125). -/
def accept (i : Instr) (s : State) : State :=
  { s with pend := encode i, busy := true, pendT := if i = .seedTime then s.timeS else s.pendT }

/-- R70 `Complete()`: `Execute(PEND) ; BUSY <- 0`. -/
def complete (effect : State → State) (s : State) : State := { effect s with busy := false }

/-- R70 `Accept(w)` for the legal word of `i`, then `k` on the state with the command pending. A failing check rejects the
command: its error is recorded with `ERR_INFO = w` and nothing else changes (R212, R216). -/
def present (i : Instr) (check : State → Option ErrorCode) (k : State → State) (s : State) : State :=
  whenCommandable s fun s =>
    match check s with
    | some e => raiseError e (encode i) s
    | none => k (accept i s)

/-- A command from the `CMD` write to its completion, as one step (R70: a model may fuse the two when nothing reads in
between; log entry 14). -/
def runCommand (i : Instr) (check : State → Option ErrorCode) (effect : State → State) (s : State) :
    Host.Outcome State Fault Refusal :=
  .next (present i check (complete effect) s)

/-- R97, R211: an illegal word written to `CMD` records code 1 with the word. -/
def presentIllegal (w : Word) (s : State) : State := whenCommandable s (raiseError .illegal w)

/-- `Seed(v)`, the common effect of the seeding commands (40_seeding.md R121). -/
def seedWith (v : Nat) (s : State) : State := { s with state := BitVec.ofNat 32 v, ctr := 0, seeded := true }

/-- The check `SEEDED = 1` (10_state.md R30, 42_generation.md R160). -/
def checkSeeded (s : State) : Option ErrorCode := if s.seeded then none else some .unseeded

/-- The check `s(MAX) ≥ s(MIN)` (R160, R168). -/
def checkRange (s : State) : Option ErrorCode := if minValue s ≤ maxValue s then none else some .range

/-- The check `u(CTR) < 2^64 - 1` (R160, R163). -/
def checkCounter (s : State) : Option ErrorCode := if s.ctr.toNat < 2 ^ 64 - 1 then none else some .ctrOvf

/-- The message whose CRC is a draw's increment (R161): counter, state, counter, in decimal. -/
def drawMessage (ctr : DWord) (state : Word) : List Byte := dec ctr.toNat ++ dec state.toNat ++ dec ctr.toNat

/-- The increment `c` of a draw (R161). -/
def drawIncrement (ctr : DWord) (state : Word) : Word := hash32 (drawMessage ctr state)

/-- The multiplier `A` (10_state.md R25). -/
def lcgMultiplier : Nat := 1664525

/-- The LCG update, reduced modulo `M = 2^32` (R162). -/
def lcgNext (state c : Word) : Word := BitVec.ofNat 32 (lcgMultiplier * state.toNat + c.toNat)

/-- `Draw(lo, hi)` (R160), steps 1 to 4 on the state at the start of the draw; the mapping reads the new state. -/
def drawWith (lo hi : Int) (s : State) : State :=
  let c := drawIncrement s.ctr s.state
  let next := lcgNext s.state c
  { s with
    state := next
    ctr := BitVec.ofNat 64 (s.ctr.toNat + 1)
    incr := c
    result := BitVec.ofInt 64 (mapRange next.toNat lo hi) }

end Sys2Proof.Machine
end

