-- ==== Sys2Proof/Machine/Control.lean ====
section
/-! DEFINITION. `NOP` (43_snapshot_and_control.md R194). -/

namespace Sys2Proof.Machine

/-- `NOP` has no check of its own. -/
def checkNop (_ : State) : Option ErrorCode := none

/-- `NOP` has no effect. -/
def effectNop (s : State) : State := s

/-- `NOP` (R194): accepted and completed like any command, with no effect. -/
def execNop (s : State) : Host.Outcome State Fault Refusal := runCommand .nop checkNop effectNop s

end Sys2Proof.Machine
end

