-- ==== Sys2Proof/Machine/Generation.lean ====
section
/-! DEFINITION. `NEXT_INT`, `NEXT_BYTE` (42_generation.md R167, R169). -/

namespace Sys2Proof.Machine

/-- `SEEDED = 1` (code 3), then `s(MAX) ≥ s(MIN)` (code 4), then `u(CTR) < 2^64 - 1` (code 6), in that order (R167). -/
def checkNextInt (s : State) : Option ErrorCode := checkSeeded s <|> checkRange s <|> checkCounter s

/-- `Draw(s(MIN), s(MAX))` (R167). -/
def effectNextInt (s : State) : State := drawWith (minValue s) (maxValue s) s

/-- `NEXT_INT` (R167). -/
def execNextInt (s : State) : Host.Outcome State Fault Refusal := runCommand .nextInt checkNextInt effectNextInt s

/-- `SEEDED = 1` (code 3), then `u(CTR) < 2^64 - 1` (code 6); `MIN` and `MAX` are not read (R169). -/
def checkNextByte (_ : Bool) (s : State) : Option ErrorCode := checkSeeded s <|> checkCounter s

/-- `Draw(0, 255)` or `Draw(32, 126)` (R169). -/
def effectNextByte (readable : Bool) (s : State) : State := drawWith (byteLo readable) (byteHi readable) s

/-- `NEXT_BYTE R` (R169). -/
def execNextByte (readable : Bool) (s : State) : Host.Outcome State Fault Refusal :=
  runCommand (.nextByte readable) (checkNextByte readable) (effectNextByte readable) s

end Sys2Proof.Machine
end

