-- ==== Sys2Proof/Machine/Hashing.lean ====
section
/-! DEFINITION. `HASH_START`, `HASH_BYTE` (41_hash.md R147, R148). -/

namespace Sys2Proof.Machine

/-- `HASH_START` has no check of its own (R147). -/
def checkHashStart (_ : State) : Option ErrorCode := none

/-- `HACC <- 0xFFFFFFFF` (R147). -/
def effectHashStart (s : State) : State := { s with hacc := crcInit }

/-- `HASH_START` (R147). -/
def execHashStart (s : State) : Host.Outcome State Fault Refusal := runCommand .hashStart checkHashStart effectHashStart s

/-- `HASH_BYTE` has no check of its own: every `b` is legal (R148). -/
def checkHashByte (_ : Byte) (_ : State) : Option ErrorCode := none

/-- `HACC <- crc_update(HACC, b)` (R148). -/
def effectHashByte (b : Byte) (s : State) : State := { s with hacc := crcUpdate s.hacc b }

/-- `HASH_BYTE b` (R148). -/
def execHashByte (b : Byte) (s : State) : Host.Outcome State Fault Refusal :=
  runCommand (.hashByte b) (checkHashByte b) (effectHashByte b) s

end Sys2Proof.Machine
end

