-- ==== Sys2Proof/Machine/Seeding.lean ====
section
/-! DEFINITION. `SEED_INT`, `SEED_TIME`, `SEED_HASH` (40_seeding.md R122, R125, R128). -/

namespace Sys2Proof.Machine

/-- `abs(v) < 2^32`, else code 5 (R122, R123). -/
def checkSeedInt (s : State) : Option ErrorCode := if (seedValue s).natAbs < 2 ^ 32 then none else some .seedRange

/-- `Seed(abs(v))` (R122). -/
def effectSeedInt (s : State) : State := seedWith (seedValue s).natAbs s

/-- `SEED_INT` (R122). -/
def execSeedInt (s : State) : Host.Outcome State Fault Refusal := runCommand .seedInt checkSeedInt effectSeedInt s

/-- `t < 2^32` of the value on `TIME_S` at acceptance, else code 5 (R125, R126). -/
def checkSeedTime (s : State) : Option ErrorCode := if s.timeS.toNat < 2 ^ 32 then none else some .seedRange

/-- `Seed(t)` with the sample taken at acceptance (R125, C8). -/
def effectSeedTime (s : State) : State := seedWith s.pendT.toNat s

/-- `SEED_TIME` (R125). -/
def execSeedTime (s : State) : Host.Outcome State Fault Refusal := runCommand .seedTime checkSeedTime effectSeedTime s

/-- `SEED_HASH` has no check of its own (R128). -/
def checkSeedHash (_ : State) : Option ErrorCode := none

/-- `Seed(u(HACC ^ 0xFFFFFFFF))`; `HACC` is not changed (R128). -/
def effectSeedHash (s : State) : State := seedWith (crcFinal s.hacc).toNat s

/-- `SEED_HASH` (R128). -/
def execSeedHash (s : State) : Host.Outcome State Fault Refusal := runCommand .seedHash checkSeedHash effectSeedHash s

end Sys2Proof.Machine
end

