-- ==== Sys2Proof/Machine/Snapshot.lean ====
section
/-! DEFINITION. `SAVE`, `RESTORE` (43_snapshot_and_control.md R190, R191). -/

namespace Sys2Proof.Machine

/-- `SEEDED = 1`, else code 3 (R190). -/
def checkSave (s : State) : Option ErrorCode := checkSeeded s

/-- `SAVED <- STATE ; SAVED_VALID <- 1` (R190). -/
def effectSave (s : State) : State := { s with saved := s.state, savedValid := true }

/-- `SAVE` (R190). -/
def execSave (s : State) : Host.Outcome State Fault Refusal := runCommand .save checkSave effectSave s

/-- `SEEDED = 1`, else code 3; a missing snapshot is no error (R191). -/
def checkRestore (s : State) : Option ErrorCode := checkSeeded s

/-- `if SAVED_VALID = 1: STATE <- SAVED`; `CTR` is not changed (R191, R192). -/
def effectRestore (s : State) : State := { s with state := if s.savedValid then s.saved else s.state }

/-- `RESTORE` (R191). -/
def execRestore (s : State) : Host.Outcome State Fault Refusal := runCommand .restore checkRestore effectRestore s

end Sys2Proof.Machine
end

