-- ==== Sys2Proof/Machine/Dispatch.lean ====
section
/-! DEFINITION. One arm per command of 30_encoding.md R94. -/

namespace Sys2Proof.Machine

/-- A command written to `CMD`, from its acceptance to its completion, one arm per row of the opcode table. -/
def exec (i : Instr) (s : State) : Host.Outcome State Fault Refusal :=
  match i with
  | .nop => Sys2Proof.Machine.execNop s
  | .seedInt => Sys2Proof.Machine.execSeedInt s
  | .seedTime => Sys2Proof.Machine.execSeedTime s
  | .hashStart => Sys2Proof.Machine.execHashStart s
  | .hashByte b => Sys2Proof.Machine.execHashByte b s
  | .seedHash => Sys2Proof.Machine.execSeedHash s
  | .nextInt => Sys2Proof.Machine.execNextInt s
  | .nextByte readable => Sys2Proof.Machine.execNextByte readable s
  | .save => Sys2Proof.Machine.execSave s
  | .restore => Sys2Proof.Machine.execRestore s

end Sys2Proof.Machine
end

