-- ==== Sys2Proof/Machine/Lifecycle.lean ====
section
/-! DEFINITION. A command's two events when they are two steps (20_memory.md R70): acceptance at the host's write, and
completion by the command engine while `BUSY = 1`. -/

namespace Sys2Proof.Machine

/-- The checks of a command's own rule (R100 `Check(w)`). -/
def checkOf (i : Instr) (s : State) : Option ErrorCode :=
  match i with
  | .nop => checkNop s
  | .seedInt => checkSeedInt s
  | .seedTime => checkSeedTime s
  | .hashStart => checkHashStart s
  | .hashByte b => checkHashByte b s
  | .seedHash => checkSeedHash s
  | .nextInt => checkNextInt s
  | .nextByte readable => checkNextByte readable s
  | .save => checkSave s
  | .restore => checkRestore s

/-- The effect of a command's own rule (R70 `Execute(PEND)`). -/
def effectOf (i : Instr) (s : State) : State :=
  match i with
  | .nop => effectNop s
  | .seedInt => effectSeedInt s
  | .seedTime => effectSeedTime s
  | .hashStart => effectHashStart s
  | .hashByte b => effectHashByte b s
  | .seedHash => effectSeedHash s
  | .nextInt => effectNextInt s
  | .nextByte readable => effectNextByte readable s
  | .save => effectSave s
  | .restore => effectRestore s

/-- Acceptance alone: the command stays pending (R70 `Accept(w)`). -/
def acceptOnly (i : Instr) (s : State) : State := present i (checkOf i) id s

/-- Completion alone (R70 `Complete()`). -/
def completePending (s : State) : Host.Outcome State Fault Refusal :=
  match decode s.pend with
  | .ok i => .next (complete (effectOf i) s)
  | .error _ => .fault .illegalPending

/-- The state the pending command will leave: what a flag read during `BUSY = 1` may already show (R68). -/
def afterPending (s : State) : State :=
  match decode s.pend with
  | .ok i => effectOf i s
  | .error _ => s

/-- A write of `w` to `CMD`. `engine` says that the engine completes an accepted command within this step (latency 0). -/
def writeCommand (engine : Bool) (w : Word) (s : State) : Host.Outcome State Fault Refusal :=
  match decode w with
  | .ok i => if engine then exec i s else .next (acceptOnly i s)
  | .error _ => .next (presentIllegal w s)

end Sys2Proof.Machine
end

