-- ==== Sys2Proof/Machine/Window.lean ====
section
/-! DEFINITION. The register window (20_memory.md R60-R69): what a bus read returns and what a bus write does. -/

namespace Sys2Proof.Machine

/-- The content of a register word (R61); `CMD` and the reserved word read 0 (R65). -/
def regContent (r : RegName) (s : State) : Word :=
  match r with
  | .cmd => 0
  | .status => statusWord s
  | .seedLo => loHalf s.seed
  | .seedHi => hiHalf s.seed
  | .min => s.minReg
  | .max => s.maxReg
  | .resultLo => loHalf s.result
  | .resultHi => hiHalf s.result
  | .state => s.state
  | .saved => s.saved
  | .ctrLo => loHalf s.ctr
  | .ctrHi => hiHalf s.ctr
  | .incr => s.incr
  | .hash => crcFinal s.hacc
  | .errInfo => s.errInfo
  | .reserved => 0

/-- The register words whose read while `BUSY = 1` returns an unspecified word (R68). -/
def unspecifiedWhileBusy (r : RegName) : Bool :=
  match r with
  | .resultLo | .resultHi | .state | .saved | .ctrLo | .ctrHi | .incr | .hash => true
  | .cmd | .status | .seedLo | .seedHi | .min | .max | .errInfo | .reserved => false

/-- `STATUS` while `BUSY = 1`: `BUSY` and `ERR_CODE` exact, `SEEDED` and `SAVED_VALID` each as before or as after the
pending command (R68). -/
def busyStatus (s : State) : Word :=
  statusOf s.busy (if Config.seededReadsAfter s.free then (afterPending s).seeded else s.seeded)
    (if Config.savedValidReadsAfter s.free then (afterPending s).savedValid else s.savedValid) s.errCode

/-- What a read returns while the block's state is lost (60_exceptions.md R227): the words and bits that hold no state read
0 (R65), every other bit is free. -/
def lostWord (r : RegName) (s : State) : Word :=
  let w := Config.freeWord s.free
  match r with
  | .cmd | .reserved => 0
  | .status => statusOf (w.getLsbD 0) (w.getLsbD 1) (w.getLsbD 2) (w.extractLsb' 8 4)
  | .seedLo | .seedHi | .min | .max | .resultLo | .resultHi | .state | .saved | .ctrLo | .ctrHi | .incr | .hash
  | .errInfo => w

/-- What a read of a register word returns now (R65, R68); 0 while `RST` is asserted (R240). -/
def readWord (r : RegName) (s : State) : Word :=
  if s.rst then 0
  else if s.lost then lostWord r s
  else if s.busy then
    if unspecifiedWhileBusy r then Config.freeWord s.free
    else if r = .status then busyStatus s
    else regContent r s
  else regContent r s

/-- A read now draws a free value's number: while `BUSY = 1`, or while the block's state is lost. -/
def readsFree (s : State) : Bool := !s.rst && (s.busy || s.lost)

/-- `RegRead(off)` (R63, R65): no register of the block changes. -/
def busRead (off : Offset) (width : Nat) (s : State) : State :=
  if legalAccess off width then
    { s with
      reads := readWord (RegName.ofOffset off) s :: s.reads
      free := if readsFree s then s.free + 1 else s.free }
  else raiseBusFault off s

/-- `RegWrite(off, v)` to a register word (R66). -/
def regWrite (engine : Bool) (r : RegName) (v : Word) (s : State) : Host.Outcome State Fault Refusal :=
  match r with
  | .cmd => writeCommand engine v s
  | .seedLo => .next (whenWritable r.offset s fun s => { s with seed := setLoHalf v s.seed })
  | .seedHi => .next (whenWritable r.offset s fun s => { s with seed := setHiHalf v s.seed })
  | .min => .next (whenWritable r.offset s fun s => { s with minReg := v })
  | .max => .next (whenWritable r.offset s fun s => { s with maxReg := v })
  | .status | .resultLo | .resultHi | .state | .saved | .ctrLo | .ctrHi | .incr | .hash | .errInfo | .reserved => .next s

/-- `RegWrite(off, v)` as a bus access (R63, R66). -/
def busWrite (engine : Bool) (off : Offset) (width : Nat) (v : Word) (s : State) : Host.Outcome State Fault Refusal :=
  if legalAccess off width then regWrite engine (RegName.ofOffset off) v s else .next (raiseBusFault off s)

end Sys2Proof.Machine
end

