-- ==== Sys2Proof/Machine/Agents.lean ====
section
/-! DEFINITION. The two agents (00_scope.md R16) and what decides which moves: the host's next act, and the turn the
environment gives (log entries 1, 2). -/

namespace Sys2Proof.Machine

/-- Whether the command engine acts at this step. With no turn listed it does (R253; log entry 1). -/
def engineActs (s : State) : Bool :=
  match s.env with
  | [] => true
  | t :: _ => t.engine

/-- Takes one turn: the input `TIME_S` shows the turn's value, or a free one where none is listed (R127; log entry 2). -/
def takeTurn (s : State) : State :=
  match s.env with
  | [] => { s with timeS := Config.freeTime s.free, free := s.free + 1 }
  | t :: rest => { s with timeS := t.timeS, env := rest }

/-- The command engine completes the pending command in this step (20_memory.md R70 `Complete`): the block's state is not
lost, `BUSY = 1`, and it is the engine's turn. In every other step the host moves. -/
def engineCompletes (s : State) : Bool := !s.lost && s.busy && engineActs s

/-- What the host's poll of `BUSY` sees: its exact value (R68), 0 while `RST` is asserted (R240), a free bit while the block's
state is lost. -/
def seenBusy (s : State) : Bool :=
  if s.rst then false else if s.lost then (Config.freeWord s.free).getLsbD 0 else s.busy

/-- One poll of a `WAIT`: one that sees `BUSY = 1` leaves the `WAIT` the next act (R72; log entry 3). -/
def pollBusy (s : State) : State :=
  { s with
    host := if seenBusy s then .wait :: s.host else s.host
    free := if !s.rst && s.lost then s.free + 1 else s.free }

/-- One act of the host. -/
def hostDoes (engine : Bool) (a : HostAct) (s : State) : Host.Outcome State Fault Refusal :=
  match a with
  | .read off width => .next (busRead off width s)
  | .write off width v => busWrite engine off width v s
  | .wait => .next (pollBusy s)
  | .reset => .next { resetBlock s with rst := false }
  | .assertRst => .next { resetBlock s with rst := true }
  | .releaseRst => .next { s with rst := false }
  | .powerCycle => .next (loseState s)

/-- The host's move: its next act, or nothing when its program has ended (60_exceptions.md R227: the block is idle). -/
def hostMoves (engine : Bool) (s : State) : Host.Outcome State Fault Refusal :=
  match s.host with
  | [] => .next s
  | a :: rest => hostDoes engine a { s with host := rest }

end Sys2Proof.Machine
end

