-- ==== Sys2Proof/Machine/Step.lean ====
section
/-! DEFINITION. One step of the machine: the command engine completes the pending command, or the host does one act. -/

namespace Sys2Proof.Machine

/-- One step (00_scope.md R16, 20_memory.md R70, R73). While `BUSY = 1` and it is the engine's turn, the pending command
completes; otherwise the host does its next act, and a command it gets accepted at an engine's turn completes at once. -/
def step (s : State) : Host.Outcome State Fault Refusal :=
  if engineCompletes s then completePending (takeTurn s) else hostMoves (engineActs s) (takeTurn s)

/-- Makes the host write the word `w` to `CMD` at the very next step, which runs it (log entry 10): the act comes first in
the host's program, `RST` is released, the block counts as reset since its power came, and one turn is put first (the
engine's when the block is idle, the host's while a command is pending), with `TIME_S` as it is. -/
def State.withFetchWord (s : State) (nbits w : Nat) : State :=
  { s with
    lost := false
    rst := false
    host := .write 0x00 32 (BitVec.ofNat 32 (w % 2 ^ nbits)) :: s.host
    env := { engine := !s.busy, timeS := s.timeS } :: s.env }

end Sys2Proof.Machine
end

