-- ==== Sys2Proof/Machine/HostProgram.lean ====
section
/-! DEFINITION. Host programs: the assembler's lines (30_encoding.md R101), the pseudo-instructions with their exact
expansions (R102), and the document's public operations as host sequences (R103). -/

namespace Sys2Proof.Machine

/-- The three seed forms of `CONSTRUCT` and of a reseed (R102, R103; 40_seeding.md R120). -/
inductive SeedForm where
  /-- `SEEDI v`. -/
  | integer (v : Int)
  /-- `SEEDT`. -/
  | clock
  /-- `SEEDS "..."`, the text as its bytes. -/
  | text (bytes : List Byte)
  deriving DecidableEq, Repr

/-- One line of a host program. -/
inductive AsmLine where
  | command (i : Instr)
  | wr (r : RegName) (v : Int)
  | rd (r : RegName)
  | wait
  | reset
  | seedi (v : Int)
  | seedt
  | hashs (bytes : List Byte)
  | seeds (bytes : List Byte)
  /-- `DRAW lo, hi`; for a bound outside `[-2^31, 2^31)` see log entry 24. -/
  | draw (lo hi : Int)
  | nextBytes (n : Nat) (readable : Bool)
  | construct (seed : SeedForm)
  deriving DecidableEq, Repr

/-- `RegWrite(off(NAME), trunc_32(value))` (R101). -/
def actWr (r : RegName) (v : Int) : HostAct := .write r.offset 32 (BitVec.ofInt 32 v)

/-- `RegRead(off(NAME))` (R101). -/
def actRd (r : RegName) : HostAct := .read r.offset 32

/-- A command line: `RegWrite(0x00, w)` (R101). -/
def actCommand (i : Instr) : HostAct := .write RegName.cmd.offset 32 (encode i)

/-- A command and its `WAIT`. -/
def actsRun (i : Instr) : List HostAct := [actCommand i, .wait]

/-- `SEEDI v` (R102): the two halves of `trunc_64(v)`. -/
def actsSeedInt (v : Int) : List HostAct :=
  [.write RegName.seedLo.offset 32 (loHalf (BitVec.ofInt 64 v)), .write RegName.seedHi.offset 32 (hiHalf (BitVec.ofInt 64 v))]
    ++ actsRun .seedInt

/-- `HASHS` (R102). -/
def actsHash (bytes : List Byte) : List HostAct := actsRun .hashStart ++ bytes.flatMap fun b => actsRun (.hashByte b)

/-- `SEEDS` (R102). -/
def actsSeedText (bytes : List Byte) : List HostAct := actsHash bytes ++ actsRun .seedHash

/-- A seeding sequence (R102). -/
def actsSeed : SeedForm → List HostAct
  | .integer v => actsSeedInt v
  | .clock => actsRun .seedTime
  | .text bytes => actsSeedText bytes

/-- `DRAW lo, hi` (R102). DESIGN CHOICE (log entry 24): R102 gives no expansion for a bound outside `[-2^31, 2^31)`; here
the bound is truncated to 32 bits, as `WR` truncates its value. -/
def actsDraw (lo hi : Int) : List HostAct :=
  [actWr .min lo, actWr .max hi] ++ actsRun .nextInt ++ [actRd .resultLo, actRd .resultHi]

/-- One round of `NEXT_BYTES` (R102). -/
def actsNextByte (readable : Bool) : List HostAct := actsRun (.nextByte readable) ++ [actRd .resultLo]

/-- `NEXT_BYTES n, r` (R102): `n` rounds, nothing when `n = 0`. -/
def actsNextBytes : Nat → Bool → List HostAct
  | 0, _ => []
  | n + 1, readable => actsNextByte readable ++ actsNextBytes n readable

/-- What a line stands for (R101, R102). -/
def AsmLine.expand : AsmLine → List HostAct
  | .command i => [actCommand i]
  | .wr r v => [actWr r v]
  | .rd r => [actRd r]
  | .wait => [.wait]
  | .reset => [.reset]
  | .seedi v => actsSeedInt v
  | .seedt => actsSeed .clock
  | .hashs bytes => actsHash bytes
  | .seeds bytes => actsSeedText bytes
  | .draw lo hi => actsDraw lo hi
  | .nextBytes n readable => actsNextBytes n readable
  | .construct seed => .reset :: actsSeed seed

/-- A host program from its lines. -/
def assemble (lines : List AsmLine) : List HostAct := lines.flatMap AsmLine.expand

/-- The document's public operations on the block (R103). The result shape of `nextBytes` is the host's (00_scope.md R5). -/
inductive PublicOp where
  | construct (seed : SeedForm)
  | reseed (seed : SeedForm)
  /-- `nextInt(min, max)`; for a bound outside `[-2^31, 2^31)` see log entry 24. -/
  | nextInt (lo : Int := 0) (hi : Int := 255)
  | nextBytes (length : Nat) (asciiReadable : Bool := false)
  | saveStatus
  | restoreStatus
  deriving DecidableEq, Repr

/-- R103, the column "Host sequence". -/
def PublicOp.acts : PublicOp → List HostAct
  | .construct seed => .reset :: actsSeed seed
  | .reseed seed => actsSeed seed
  | .nextInt lo hi => actsDraw lo hi
  | .nextBytes length readable => actsNextBytes length readable
  | .saveStatus => actsRun .save
  | .restoreStatus => actsRun .restore

end Sys2Proof.Machine
end

