-- ==== Sys2Proof/Safety.lean ====
section
/-! DEFINITION. The terms claims are stated in: when a command is accepted, what a safe run is, the invariant of the block,
the block without its outside, and sequences of commands. -/

namespace Sys2Proof.Machine

/-- The block takes a command: it serves accesses, none is pending, no error is recorded (20_memory.md R70, R240). -/
abbrev State.Ready (s : State) : Prop := s.serves = true ∧ s.busy = false ∧ s.errCode = 0

/-- A run so far is safe: no error and no bus fault recorded, the premise of a claim about a program (60_exceptions.md
R228). -/
abbrev State.Clean (s : State) : Prop := s.errCode = 0 ∧ s.busFaults = []

/-- The host's next act breaks none of the hazards R245 and R246 (70_reset_and_hazards.md): while `BUSY = 1` it writes
neither `CMD` nor an operand register and reads no register whose value is then unspecified. Nor does it use a block that has
lost its state, or remove its power (R243). -/
def State.nextActSafe (s : State) : Bool :=
  match s.host with
  | .read off width :: _ =>
    legalAccess off width && !s.lost && !(s.busy && unspecifiedWhileBusy (RegName.ofOffset off))
  | .write off width _ :: _ =>
    legalAccess off width && !s.lost &&
      !(s.busy && [RegName.cmd, .seedLo, .seedHi, .min, .max].contains (RegName.ofOffset off))
  | .wait :: _ => !s.lost
  | .powerCycle :: _ => false
  | .reset :: _ | .assertRst :: _ | .releaseRst :: _ | [] => true

/-- The block and its hidden registers, with everything outside it (inputs, host, counts) put to one value. -/
def State.block (s : State) : State :=
  { s with rst := false, timeS := 0, host := [], env := [], reads := [], busFaults := [], free := 0 }

/-- What the host can come to know of the block: `block` without `PEND` and `PEND_T`, which mean nothing while no command
is pending (93_implementation_defined.md I20). -/
def State.visible (s : State) : State := { s.block with pend := 0, pendT := 0 }

/-- The pending command is a legal one whose checks hold, on the operands it was accepted with (R70, R212). `SEED_TIME`'s
operand is the sample `PEND_T`. -/
def pendingPasses (i : Instr) (s : State) : Bool :=
  match i with
  | .seedTime => decide (s.pendT.toNat < 2 ^ 32)
  | .nop | .seedInt | .hashStart | .hashByte _ | .seedHash | .nextInt | .nextByte _ | .save | .restore =>
    (checkOf i s).isNone

/-- `PEND` holds a legal command word whose checks hold. -/
def pendingLegal (s : State) : Bool :=
  match decode s.pend with
  | .ok i => pendingPasses i s
  | .error _ => false

/-- The error record: codes 7 to 15 are never produced (R35), and `ERR_INFO` is 0 while `ERR_CODE = 0` (R36). -/
abbrev State.errorRecordOk (s : State) : Prop := s.errCode.toNat ≤ 6 ∧ (s.errCode = 0 → s.errInfo = 0)

/-- Before the first seeding the generator's registers hold their reset values (R29, R30, R42, I21). -/
abbrev State.unseededOk (s : State) : Prop :=
  s.seeded = false →
    s.state = 0 ∧ s.ctr = 0 ∧ s.incr = 0 ∧ s.result = 0 ∧ s.savedValid = false

/-- `SAVED` holds its reset value while absent (R29). -/
abbrev State.snapshotOk (s : State) : Prop := s.savedValid = false → s.saved = 0

/-- A pending command can complete (R70: "`Execute` never fails"). -/
abbrev State.pendingOk (s : State) : Prop := s.busy = true → pendingLegal s = true

/-- While `RST` is asserted the block holds its reset values (R240). -/
abbrev State.heldOk (s : State) : Prop := s.rst = true → s.block = State.reset.block

/-- The invariant of the block: of a block whose state is lost nothing is asked. -/
abbrev State.Inv (s : State) : Prop :=
  s.lost = false → s.errorRecordOk ∧ s.unseededOk ∧ s.snapshotOk ∧ s.pendingOk ∧ s.heldOk

/-- The generic checks of a command (60_exceptions.md R213, steps 2 and 3; 70_reset_and_hazards.md R240): its word is
ignored while `RST` is asserted, dropped with code 2 and the offset of `CMD` while `BUSY = 1`, and ignored while an error is
recorded. -/
def GenericChecks (i : Instr) : Prop :=
  ∀ s : State,
    (s.rst = true → exec i s = .next s) ∧
    (s.serves = true → s.busy = true →
      exec i s = .next (if s.errCode = 0 then { s with errCode := 2, errInfo := 0 } else s)) ∧
    (s.serves = true → s.busy = false → s.errCode ≠ 0 → exec i s = .next s)

/-- A draw command (00_scope.md R15). -/
def isDraw : Instr → Bool
  | .nextInt | .nextByte _ => true
  | .nop | .seedInt | .seedTime | .hashStart | .hashByte _ | .seedHash | .save | .restore => false

/-- A seeding command (40_seeding.md R120). -/
def isSeeding : Instr → Bool
  | .seedInt | .seedTime | .seedHash => true
  | .nop | .hashStart | .hashByte _ | .nextInt | .nextByte _ | .save | .restore => false

/-- A hash command (41_hash.md). -/
def isHash : Instr → Bool
  | .hashStart | .hashByte _ => true
  | .nop | .seedInt | .seedTime | .seedHash | .nextInt | .nextByte _ | .save | .restore => false

/-- An act that resets the block: an event on `RST`. -/
def HostAct.isReset : HostAct → Bool
  | .reset | .assertRst => true
  | .read _ _ | .write _ _ _ | .wait | .releaseRst | .powerCycle => false

/-- The host's act in this step: none where the engine completes the pending command or the program has ended. -/
def State.actNow (s : State) : Option HostAct := if engineCompletes s then none else s.host.head?

/-- The host acts in this step, and its act is an event on `RST` that resets the block. -/
def State.resetsNext (s : State) : Bool := s.actNow.any HostAct.isReset

/-- Commands written one after the other, each completed before the next. -/
def execAll : List Instr → State → Host.Outcome State Fault Refusal
  | [], s => .next s
  | i :: is, s =>
    match exec i s with
    | .next t => execAll is t
    | .fault r => .fault r
    | .refused r => .refused r

/-- `k` steps of the machine, stopping at a fault or a refusal. -/
def steps : Nat → State → Host.Outcome State Fault Refusal
  | 0, s => .next s
  | k + 1, s =>
    match step s with
    | .next t => steps k t
    | .fault r => .fault r
    | .refused r => .refused r

end Sys2Proof.Machine
end

