-- ==== Sys2Proof/Certificates/Slice0/Obligations.lean ====
section
/-! DEFINITION. The statements for the provers. A statement about an accepted command says the whole next state: every
field it does not name is as before, but `PEND` (and `PEND_T` where it says so), which mean nothing once `BUSY = 0`
(93_implementation_defined.md I20) and are left open by an existential. `serves` is the premise that `RST` is released and
that the block has been reset since its power came (R240, R243). -/

section

open Sys2Proof Sys2Proof.Machine

/-! ### Encoding -/

/-- 30_encoding.md §2 and §4: the decoder and the encoder are inverse to each other on all 2^32 words. -/
def Obligations.DecodeEncodeAgree : Prop :=
  ∀ (i : Instr) (w : Word), decode w = .ok i ↔ encode i = w

/-- R94: each row of the opcode map is decoded as it stands, nothing else is, and there are 266 legal words. -/
def Obligations.LegalWordsAreTheOpcodeMap : Prop :=
  (∀ (w : Word) (i : Instr), decode w = .ok i ↔
    (i = .nop ∧ w = 0x00000000) ∨ (i = .seedInt ∧ w = 0x00000001) ∨ (i = .seedTime ∧ w = 0x00000002) ∨
    (i = .hashStart ∧ w = 0x00000003) ∨ (∃ b : Byte, i = .hashByte b ∧ w.toNat = b.toNat * 2 ^ 8 + 0x04) ∨
    (i = .seedHash ∧ w = 0x00000005) ∨ (i = .nextInt ∧ w = 0x00000006) ∨
    (i = .nextByte false ∧ w = 0x00000007) ∨ (i = .nextByte true ∧ w = 0x00000107) ∨
    (i = .save ∧ w = 0x00000008) ∨ (i = .restore ∧ w = 0x00000009)) ∧
  ∃ legal : List Word, legal.Nodup ∧ legal.length = 266 ∧ ∀ w : Word, (∃ i, decode w = .ok i) ↔ w ∈ legal

/-- R97: exactly the words that meet one of the four conditions are illegal; an illegal word is rejected at acceptance
with code 1 and `ERR_INFO = w`, and nothing else changes. -/
def Obligations.IllegalWordsAreRejected : Prop :=
  ∀ w : Word,
    let illegal :=
      w.toNat / 2 ^ 16 ≠ 0 ∨ w.toNat % 2 ^ 8 ≥ 0x0A ∨
      (w.toNat % 2 ^ 8 ≠ 0x04 ∧ w.toNat % 2 ^ 8 ≠ 0x07 ∧ w.toNat / 2 ^ 8 % 2 ^ 8 ≠ 0) ∨
      (w.toNat % 2 ^ 8 = 0x07 ∧ w.toNat / 2 ^ 9 % 2 ^ 7 ≠ 0)
    ((∀ i, decode w ≠ .ok i) ↔ illegal) ∧
    ∀ (engine : Bool) (s : State), illegal → s.Ready →
      busWrite engine 0x00 32 w s = .next { s with errCode := 1, errInfo := w }

/-- Words written out from R94 bit by bit, one of each family, and illegal words of 95_test_vectors.md V-E1. -/
def Obligations.WrittenOutWordsDecode : Prop :=
  decode 0x00000000 = .ok .nop ∧ decode 0x00000001 = .ok .seedInt ∧ decode 0x00006104 = .ok (.hashByte 0x61) ∧
  decode 0x0000FF04 = .ok (.hashByte 0xFF) ∧ decode 0x00000006 = .ok .nextInt ∧
  decode 0x00000107 = .ok (.nextByte true) ∧ decode 0x00000009 = .ok .restore ∧
  decode 0x0000000A = .error .reservedOpcode ∧ decode 0x00010000 = .error .rsvdNotZero ∧
  decode 0x00000106 = .error .immNotZero ∧ decode 0x00000207 = .error .readableBits

/-! ### CRC-32 and decimal strings -/

/-- R144, with `fold` as R141 writes it: one CRC step is eight folds of `c ^ zext_32(b)`. -/
def Obligations.CrcUpdateIsEightFolds : Prop :=
  ∀ (c : Word) (b : Byte),
    let fold : Word → Word := fun v => if v &&& 1 = 1 then (0xEDB88320 : Word) ^^^ (v >>> 1) else v >>> 1
    crcUpdate c b = fold (fold (fold (fold (fold (fold (fold (fold (c ^^^ b.setWidth 32))))))))

/-- R145: `hash32` starts at all ones, takes the bytes in order, and inverts at the end; it is total and 0 on no bytes. An
initial value of 0 would give 0x359A672F for "abc". -/
def Obligations.Hash32FoldsBytesInOrder : Prop :=
  (∀ bytes : List Byte, hash32 bytes = bytes.foldl crcUpdate 0xFFFFFFFF ^^^ 0xFFFFFFFF) ∧
  hash32 [] = 0x00000000 ∧
  (∀ (bytes : List Byte) (b : Byte),
    hash32 (bytes ++ [b]) = crcUpdate (hash32 bytes ^^^ 0xFFFFFFFF) b ^^^ 0xFFFFFFFF) ∧
  [0x61, 0x62, 0x63].foldl crcUpdate 0x00000000 ^^^ 0xFFFFFFFF = (0x359A672F : Word)

/-- R150, the document's conformance check, with the intermediate `HACC` values of 95_test_vectors.md V-H1. -/
def Obligations.Hash32OfAbc : Prop :=
  hash32 [0x61, 0x62, 0x63] = 0x352441C2 ∧ crcUpdate 0xFFFFFFFF 0x61 = 0x174841BC ∧
  crcUpdate 0x174841BC 0x62 = 0x617CB792 ∧ crcUpdate 0x617CB792 0x63 = 0xCADBBE3D

/-- R146: `dec(n)` is made of ASCII digits, most significant first, denotes `n`, has no leading zero, spells zero "0", and
is 1 to 20 bytes long for 64 bits and 1 to 10 for 32. -/
def Obligations.DecIsTheDecimalString : Prop :=
  dec 0 = [0x30] ∧
  ∀ n : Nat,
    (∀ b ∈ dec n, 0x30 ≤ b.toNat ∧ b.toNat ≤ 0x39) ∧
    (dec n).foldl (fun acc b => acc * 10 + (b.toNat - 0x30)) 0 = n ∧
    (n ≠ 0 → (dec n).head? ≠ some 0x30) ∧ 1 ≤ (dec n).length ∧
    (n < 2 ^ 64 → (dec n).length ≤ 20) ∧ (n < 2 ^ 32 → (dec n).length ≤ 10)

/-- 42_generation.md §1 (R161): a draw's message is the counter, the state and the counter again, with nothing between them,
and is 3 to 50 bytes long. -/
def Obligations.DrawMessageLength : Prop :=
  ∀ (ctr : DWord) (state : Word),
    drawMessage ctr state = dec ctr.toNat ++ dec state.toNat ++ dec ctr.toNat ∧
    3 ≤ (drawMessage ctr state).length ∧ (drawMessage ctr state).length ≤ 50

/-! ### The range mapping -/

/-- 00_scope.md §4 (R13): `rne53` is the identity below 2^53 and otherwise a nearest integer with 53 significant bits, the
even one of two. -/
def Obligations.Rne53RoundsToNearestEven : Prop :=
  ∀ n : Int,
    (n.natAbs < 2 ^ 53 → rne53 n = n) ∧
    (2 ^ 53 ≤ n.natAbs →
      ∃ e q : Nat,
        2 ^ (e + 52) ≤ n.natAbs ∧ n.natAbs < 2 ^ (e + 53) ∧ 2 ^ 52 ≤ q ∧ q ≤ 2 ^ 53 ∧
        rne53 n = n.sign * (q * 2 ^ e : Nat) ∧
        2 * (rne53 n - n).natAbs ≤ 2 ^ e ∧ (2 * (rne53 n - n).natAbs = 2 ^ e → q % 2 = 0))

/-- R165: the mapped value lies in `[lo, hi + 1]`, and `hi + 1` occurs outside the exact band. -/
def Obligations.MapRangeStaysInRange : Prop :=
  (∀ (s : Nat) (lo hi : Int), s < 2 ^ 32 → -(2 ^ 31) ≤ lo → lo ≤ hi → hi < 2 ^ 31 →
    lo ≤ mapRange s lo hi ∧ mapRange s lo hi ≤ hi + 1) ∧
  mapRange 0xFFFFFFFF (2 ^ 31 - 1) (2 ^ 31 - 1) = 2 ^ 31 ∧
  mapRange 0xFFFFFFFF (-(2 ^ 31)) (-(2 ^ 31)) = -(2 ^ 31) + 1

/-- R166: in the exact band the mapping is exact integer arithmetic and stays in the range. -/
def Obligations.MapRangeExactInBand : Prop :=
  ∀ (s : Nat) (lo hi : Int), s < 2 ^ 32 → -(2 ^ 20) ≤ lo → lo ≤ hi → hi ≤ 2 ^ 20 - 1 →
    mapRange s lo hi = lo + s * (hi - lo + 1) / 2 ^ 32 ∧ lo ≤ mapRange s lo hi ∧ mapRange s lo hi ≤ hi

/-- 42_generation.md §2 (R168): the widest range maps `s` to `s - 2^31`, and a new state 0 gives `lo` for every range. -/
def Obligations.MapRangeWidestAndZero : Prop :=
  (∀ s : Nat, s < 2 ^ 32 → mapRange s (-(2 ^ 31)) (2 ^ 31 - 1) = s - 2 ^ 31) ∧
  ∀ lo hi : Int, -(2 ^ 31) ≤ lo → lo ≤ hi → hi < 2 ^ 31 → mapRange 0 lo hi = lo

/-! ### The commands, one by one: encoding, generic checks, own checks, effect, frame -/

/-- R194 `NOP`: no effect, and pending like any command between acceptance and completion. -/
def Obligations.NopHasNoEffect : Prop :=
  encode .nop = 0x00000000 ∧ GenericChecks .nop ∧
  ∀ s : State, s.Ready →
    (∃ p, exec .nop s = .next { s with pend := p }) ∧ acceptOnly .nop s = { s with busy := true, pend := 0x00000000 }

/-- R122 `SEED_INT`: `Seed(abs(s(SEED)))`, or code 5 when `abs(s(SEED)) ≥ 2^32`; `SEEDED` is not asked for. -/
def Obligations.SeedIntSeedsAbsoluteValue : Prop :=
  encode .seedInt = 0x00000001 ∧ GenericChecks .seedInt ∧
  ∀ s : State, s.Ready →
    (s.seed.toInt.natAbs < 2 ^ 32 →
      ∃ p, exec .seedInt s =
        .next { s with pend := p, state := BitVec.ofNat 32 s.seed.toInt.natAbs, ctr := 0, seeded := true }) ∧
    (2 ^ 32 ≤ s.seed.toInt.natAbs → exec .seedInt s = .next { s with errCode := 5, errInfo := 0x00000001 })

/-- R125 `SEED_TIME`: `Seed(t)` of the value `t` that `TIME_S` shows at acceptance, kept in `PEND_T` until completion
whatever `TIME_S` shows then, or code 5 when `t ≥ 2^32`. -/
def Obligations.SeedTimeSeedsTheClock : Prop :=
  encode .seedTime = 0x00000002 ∧ GenericChecks .seedTime ∧
  ∀ s : State, s.Ready →
    (s.timeS.toNat < 2 ^ 32 →
      ∃ p t, exec .seedTime s =
        .next { s with pend := p, pendT := t, state := BitVec.ofNat 32 s.timeS.toNat, ctr := 0, seeded := true }) ∧
    (s.timeS.toNat < 2 ^ 32 →
      acceptOnly .seedTime s = { s with busy := true, pend := 0x00000002, pendT := s.timeS } ∧
      ∀ later : DWord, ∃ p t, completePending { acceptOnly .seedTime s with timeS := later } =
        .next { s with
          pend := p, pendT := t, timeS := later
          state := BitVec.ofNat 32 s.timeS.toNat, ctr := 0, seeded := true }) ∧
    (2 ^ 32 ≤ s.timeS.toNat → exec .seedTime s = .next { s with errCode := 5, errInfo := 0x00000002 })

/-- R128 `SEED_HASH`: `Seed(HACC ^ 0xFFFFFFFF)`; no operand value makes it fail. -/
def Obligations.SeedHashSeedsTheHash : Prop :=
  encode .seedHash = 0x00000005 ∧ GenericChecks .seedHash ∧
  ∀ s : State, s.Ready →
    ∃ p, exec .seedHash s =
      .next { s with pend := p, state := s.hacc ^^^ 0xFFFFFFFF, ctr := 0, seeded := true }

/-- R147 `HASH_START`: `HACC <- 0xFFFFFFFF`, after which `HASH` reads 0. -/
def Obligations.HashStartInitialisesHacc : Prop :=
  encode .hashStart = 0x00000003 ∧ GenericChecks .hashStart ∧
  ∀ s : State, s.Ready →
    ∃ p, exec .hashStart s = .next { s with pend := p, hacc := 0xFFFFFFFF } ∧
      regContent .hash { s with pend := p, hacc := 0xFFFFFFFF } = 0x00000000

/-- R148 `HASH_BYTE b`: `HACC <- T[(HACC ^ b) & 0xFF] ^ (HACC >> 8)`, for every `b`. -/
def Obligations.HashByteFoldsOneByte : Prop :=
  ∀ b : Byte,
    (encode (.hashByte b)).toNat = b.toNat * 2 ^ 8 + 0x04 ∧ GenericChecks (.hashByte b) ∧
    ∀ s : State, s.Ready →
      ∃ p, exec (.hashByte b) s =
        .next { s with
          pend := p
          hacc := crcTable (BitVec.ofNat 8 ((s.hacc ^^^ b.setWidth 32) &&& 0xFF).toNat) ^^^ (s.hacc >>> 8) }

/-- R160 and R167 `NEXT_INT`: the checks in their order (codes 3, 4, 6) and the draw, steps 1 to 4 of the document. -/
def Obligations.NextIntDraws : Prop :=
  encode .nextInt = 0x00000006 ∧ GenericChecks .nextInt ∧
  ∀ s : State, s.Ready →
    (s.seeded = false → exec .nextInt s = .next { s with errCode := 3, errInfo := 0x00000006 }) ∧
    (s.seeded = true → s.maxReg.toInt < s.minReg.toInt →
      exec .nextInt s = .next { s with errCode := 4, errInfo := 0x00000006 }) ∧
    (s.seeded = true → s.minReg.toInt ≤ s.maxReg.toInt → s.ctr.toNat = 2 ^ 64 - 1 →
      exec .nextInt s = .next { s with errCode := 6, errInfo := 0x00000006 }) ∧
    (s.seeded = true → s.minReg.toInt ≤ s.maxReg.toInt → s.ctr.toNat < 2 ^ 64 - 1 →
      let c := hash32 (dec s.ctr.toNat ++ dec s.state.toNat ++ dec s.ctr.toNat)
      let new := (1664525 * s.state.toNat + c.toNat) % 2 ^ 32
      ∃ p, exec .nextInt s =
        .next { s with
          pend := p
          state := BitVec.ofNat 32 new
          ctr := BitVec.ofNat 64 (s.ctr.toNat + 1)
          incr := c
          result := BitVec.ofInt 64 (mapRange new s.minReg.toInt s.maxReg.toInt) })

/-- R169 `NEXT_BYTE R`: the checks (codes 3, 6), the draw, and its exact result: the new state's top byte, or
`32 + (s * 95) div 2^32`. `MIN` and `MAX` are not read. -/
def Obligations.NextByteDrawsOneByte : Prop :=
  encode (.nextByte false) = 0x00000007 ∧ encode (.nextByte true) = 0x00000107 ∧
  ∀ r : Bool, GenericChecks (.nextByte r) ∧
  ∀ s : State, s.Ready →
    (s.seeded = false → exec (.nextByte r) s = .next { s with errCode := 3, errInfo := encode (.nextByte r) }) ∧
    (s.seeded = true → s.ctr.toNat = 2 ^ 64 - 1 →
      exec (.nextByte r) s = .next { s with errCode := 6, errInfo := encode (.nextByte r) }) ∧
    (s.seeded = true → s.ctr.toNat < 2 ^ 64 - 1 →
      let c := hash32 (dec s.ctr.toNat ++ dec s.state.toNat ++ dec s.ctr.toNat)
      let new := (1664525 * s.state.toNat + c.toNat) % 2 ^ 32
      ∃ p, exec (.nextByte r) s =
        .next { s with
          pend := p
          state := BitVec.ofNat 32 new
          ctr := BitVec.ofNat 64 (s.ctr.toNat + 1)
          incr := c
          result := BitVec.ofNat 64 (if r then 32 + new * 95 / 2 ^ 32 else new / 2 ^ 24) })

/-- R190 `SAVE`: `SAVED <- STATE ; SAVED_VALID <- 1`, or code 3 while unseeded. -/
def Obligations.SaveTakesASnapshot : Prop :=
  encode .save = 0x00000008 ∧ GenericChecks .save ∧
  ∀ s : State, s.Ready →
    (s.seeded = false → exec .save s = .next { s with errCode := 3, errInfo := 0x00000008 }) ∧
    (s.seeded = true → ∃ p, exec .save s = .next { s with pend := p, saved := s.state, savedValid := true })

/-- R191 `RESTORE`: `STATE <- SAVED` where there is a snapshot, nothing where there is none, code 3 while unseeded; `CTR`
stays. -/
def Obligations.RestoreBringsBackTheSnapshot : Prop :=
  encode .restore = 0x00000009 ∧ GenericChecks .restore ∧
  ∀ s : State, s.Ready →
    (s.seeded = false → exec .restore s = .next { s with errCode := 3, errInfo := 0x00000009 }) ∧
    (s.seeded = true → s.savedValid = true → ∃ p, exec .restore s = .next { s with pend := p, state := s.saved }) ∧
    (s.seeded = true → s.savedValid = false → ∃ p, exec .restore s = .next { s with pend := p })

/-! ### Commands together -/

/-- 10_state.md §2 to §5 (R23, R26, R27, R29, R31, R32, R33, R34): which commands may change which register, whatever the
command does and whether or not it is accepted. Only a read could draw a free value, and no command moves the host, the
inputs or the record of bus faults. -/
def Obligations.CommandsWriteOnlyTheirRegisters : Prop :=
  ∀ (i : Instr) (s t : State), exec i s = .next t →
    (t.state ≠ s.state → isSeeding i = true ∨ isDraw i = true ∨ i = .restore) ∧
    (t.incr ≠ s.incr → isDraw i = true) ∧
    (t.result ≠ s.result → isDraw i = true) ∧
    (t.ctr ≠ s.ctr → (isDraw i = true ∧ t.ctr = s.ctr + 1) ∨ (isSeeding i = true ∧ t.ctr = 0)) ∧
    (t.saved ≠ s.saved ∨ t.savedValid ≠ s.savedValid → i = .save) ∧
    (t.seeded ≠ s.seeded → isSeeding i = true ∧ t.seeded = true) ∧
    (t.hacc ≠ s.hacc → isHash i = true) ∧
    t.seed = s.seed ∧ t.minReg = s.minReg ∧ t.maxReg = s.maxReg ∧
    t.busy = s.busy ∧ t.lost = s.lost ∧ t.rst = s.rst ∧ t.timeS = s.timeS ∧ t.host = s.host ∧ t.env = s.env ∧
    t.reads = s.reads ∧ t.busFaults = s.busFaults ∧ t.free = s.free

/-- R212: a command is rejected with no effect (nothing but the error record changes), ignored, or completes. -/
def Obligations.CommandsAreAllOrNothing : Prop :=
  ∀ (i : Instr) (s : State), ∃ t, exec i s = .next t ∧
    (t = s ∨
      (s.errCode = 0 ∧ t = { s with errCode := t.errCode, errInfo := t.errInfo } ∧ t.errCode ≠ 0) ∨
      (s.Ready ∧ checkOf i s = none ∧ t = { effectOf i (accept i s) with busy := false } ∧ t.errCode = 0))

/-- R213: one host write reports at most one error, the first that applies in the order given. -/
def Obligations.ErrorPrecedence : Prop :=
  ∀ (engine : Bool) (off : Offset) (width : Nat) (v : Word) (s : State), s.serves = true →
    let reports (code : BitVec 4) (info : Word) : Prop :=
      busWrite engine off width v s = .next { s with errCode := code, errInfo := info }
    if off.toNat % 4 ≠ 0 ∨ width ≠ 32 then
      busWrite engine off width v s = .next { s with busFaults := off :: s.busFaults }
    else if off ∈ [0x00, 0x08, 0x0C, 0x10, 0x14] ∧ s.busy = true then
      if s.errCode = 0 then reports 2 (off.setWidth 32) else busWrite engine off width v s = .next s
    else if off = 0x00 then
      if s.errCode ≠ 0 then busWrite engine off width v s = .next s
      else
        match decode v with
        | .error _ => reports 1 v
        | .ok i =>
          if i ∈ [.nextInt, .nextByte false, .nextByte true, .save, .restore] ∧ s.seeded = false then reports 3 v
          else if i = .nextInt ∧ s.maxReg.toInt < s.minReg.toInt then reports 4 v
          else if (i = .seedInt ∧ 2 ^ 32 ≤ s.seed.toInt.natAbs) ∨ (i = .seedTime ∧ 2 ^ 32 ≤ s.timeS.toNat) then
            reports 5 v
          else if i ∈ [.nextInt, .nextByte false, .nextByte true] ∧ s.ctr.toNat = 2 ^ 64 - 1 then reports 6 v
          else ∃ t, busWrite engine off width v s = .next t ∧ t.errCode = 0 ∧ t.errInfo = s.errInfo
    else ∃ t, busWrite engine off width v s = .next t ∧ t.errCode = s.errCode ∧ t.errInfo = s.errInfo

/-- R172: a draw's new `STATE`, `CTR`, `INCR` and `RESULT` are a function of `STATE`, `CTR`, the word and, for `NEXT_INT`,
`MIN` and `MAX`. -/
def Obligations.DrawsDependOnGeneratorStateOnly : Prop :=
  ∀ (i : Instr) (s s' t t' : State), isDraw i = true → s.Ready → s'.Ready →
    checkOf i s = none → checkOf i s' = none →
    s.state = s'.state → s.ctr = s'.ctr → (i = .nextInt → s.minReg = s'.minReg ∧ s.maxReg = s'.maxReg) →
    exec i s = .next t → exec i s' = .next t' →
    t.state = t'.state ∧ t.ctr = t'.ctr ∧ t.incr = t'.incr ∧ t.result = t'.result

/-- R173: the new `STATE`, `CTR` and `INCR` of a draw depend only on `STATE` and `CTR`, so every draw command advances the
generator identically. -/
def Obligations.StateSequenceIgnoresRanges : Prop :=
  ∀ (i j : Instr) (s s' t t' : State), isDraw i = true → isDraw j = true → s.Ready → s'.Ready →
    checkOf i s = none → checkOf j s' = none → s.state = s'.state → s.ctr = s'.ctr →
    exec i s = .next t → exec j s' = .next t' →
    t.state = t'.state ∧ t.ctr = t'.ctr ∧ t.incr = t'.incr

/-- R151: the hash commands change `HACC` alone (beside the hidden `PEND`), in the unseeded and the seeded state alike, and
what they leave there depends on `HACC` alone. -/
def Obligations.HashCommandsTouchHaccOnly : Prop :=
  ∀ (i : Instr) (s s' : State), isHash i = true → s.Ready → s'.Ready → s.hacc = s'.hacc →
    ∃ p h, exec i s = .next { s with pend := p, hacc := h } ∧ exec i s' = .next { s' with pend := p, hacc := h }

/-- R131: two instances seeded with the same seed, whatever they held before (one reset, the other not), then given the same
`MIN` and `MAX`, give the same `STATE`, `CTR`, `INCR` and `RESULT` at the next draw and at every later one. The same seed is
the same derived seed, `STATE` after seeding, by whichever two seeding commands; one command derives it from its own operand
alone. Where a draw is rejected (code 4, code 6), it is so on both. -/
def Obligations.ReseedEqualsConstruction : Prop :=
  ∀ (i j : Instr) (s s' u u' : State), isSeeding i = true → isSeeding j = true → s.Ready → s'.Ready →
    checkOf i s = none → checkOf j s' = none → exec i s = .next u → exec j s' = .next u' →
    (i = j → (i = .seedInt → s.seed = s'.seed) → (i = .seedTime → s.timeS = s'.timeS) →
      (i = .seedHash → s.hacc = s'.hacc) → u.state = u'.state) ∧
    (u.state = u'.state → ∀ (lo hi : Word) (draws : List Instr), (∀ d ∈ draws, isDraw d = true) →
      ∃ t t', execAll draws { u with minReg := lo, maxReg := hi } = .next t ∧
        execAll draws { u' with minReg := lo, maxReg := hi } = .next t' ∧
        t.state = t'.state ∧ t.ctr = t'.ctr ∧ t.errCode = t'.errCode ∧
        (draws ≠ [] → t.errCode = 0 → t.incr = t'.incr ∧ t.result = t'.result))

/-- R193: after `SAVE`, any number `k` of draws, then `RESTORE`, `STATE` is as at the `SAVE` and `CTR` has grown by `k`; with
`k > 0` the next draw's increment message differs from that of the draw that followed the `SAVE`. -/
def Obligations.SaveRestoreRoundtrip : Prop :=
  ∀ (s : State) (draws : List Instr), s.Ready → s.seeded = true → (∀ d ∈ draws, isDraw d = true) →
    (.nextInt ∈ draws → s.minReg.toInt ≤ s.maxReg.toInt) → s.ctr.toNat + draws.length < 2 ^ 64 →
    ∃ t, execAll (.save :: (draws ++ [.restore])) s = .next t ∧ t.errCode = 0 ∧
      t.state = s.state ∧ t.saved = s.state ∧ t.savedValid = true ∧ t.ctr.toNat = s.ctr.toNat + draws.length ∧
      (draws ≠ [] → drawMessage t.ctr t.state ≠ drawMessage s.ctr s.state)

/-- R129: the sequence `HASH_START`, `HASH_BYTE b0` ... `HASH_BYTE b(k-1)`, `SEED_HASH` leaves `STATE = hash32(b0 ...
b(k-1))` and `CTR = 0` (0 for the empty text); what was hashed before the last `HASH_START` and other commands in between do
not disturb it. -/
def Obligations.TextSeedIsTheHash : Prop :=
  (∀ (bytes : List Byte) (s : State), s.Ready →
    ∃ t, execAll (.hashStart :: (bytes.map .hashByte ++ [.seedHash])) s = .next t ∧
      t.state = hash32 bytes ∧ t.ctr = 0 ∧ t.seeded = true ∧ t.errCode = 0) ∧
  hash32 [] = 0x00000000 ∧
  ∀ (before between : List Instr) (s t : State), s.Ready → .hashStart ∉ between →
    execAll (before ++ .hashStart :: (between ++ [.seedHash])) s = .next t → t.errCode = 0 →
    t.state = hash32 (between.filterMap fun | .hashByte b => some b | _ => none) ∧ t.ctr = 0

/-! ### The register window -/

/-- 20_memory.md §1 and §3 (R61, R65): with no command pending, a read of each of the sixteen words gives the register the
map names, and changes nothing of the block. -/
def Obligations.IdleReadsFollowTheMap : Prop :=
  ∀ (s : State) (off : Offset) (v : Word) (rest : List HostAct),
    s.serves = true → s.busy = false → s.host = .read off 32 :: rest →
    (off, v) ∈ [((0x00 : Offset), (0 : Word)),
      (0x04, BitVec.ofNat 32 (s.seeded.toNat * 2 + s.savedValid.toNat * 4 + s.errCode.toNat * 2 ^ 8)),
      (0x08, BitVec.ofNat 32 s.seed.toNat), (0x0C, BitVec.ofNat 32 (s.seed.toNat / 2 ^ 32)),
      (0x10, s.minReg), (0x14, s.maxReg),
      (0x18, BitVec.ofNat 32 s.result.toNat), (0x1C, BitVec.ofNat 32 (s.result.toNat / 2 ^ 32)),
      (0x20, s.state), (0x24, s.saved),
      (0x28, BitVec.ofNat 32 s.ctr.toNat), (0x2C, BitVec.ofNat 32 (s.ctr.toNat / 2 ^ 32)),
      (0x30, s.incr), (0x34, s.hacc ^^^ 0xFFFFFFFF), (0x38, s.errInfo), (0x3C, 0)] →
    step s = .next { takeTurn s with host := rest, reads := v :: s.reads }

/-- 20_memory.md §2 (R63): a misaligned access or one that is not 32 bits wide is answered by `BusFault(off)`: it reads
nothing and changes no register; it is recorded, and no later step clears it. That this check comes first while `RST` is
asserted too is log entry 8, that the record outlasts a reset and a loss of power log entries 7 and 23: the model's choices. -/
def Obligations.IllegalAccessIsABusFault : Prop :=
  (∀ s t : State, step s = .next t → s.busFaults <:+ t.busFaults) ∧
  ∀ (engine : Bool) (off : Offset) (width : Nat) (v : Word) (s : State), off.toNat % 4 ≠ 0 ∨ width ≠ 32 →
    hostDoes engine (.read off width) s = .next { s with busFaults := off :: s.busFaults } ∧
    hostDoes engine (.write off width v) s = .next { s with busFaults := off :: s.busFaults }

/-- 20_memory.md §3 (R66): with no command pending a write to an operand register sets it (whether or not an error is
recorded), and a write to a read-only or reserved word changes nothing in any state. -/
def Obligations.OperandWritesSetTheirRegister : Prop :=
  ∀ (engine : Bool) (v : Word) (s : State),
    (s.serves = true → s.busy = false →
      busWrite engine 0x08 32 v s =
        .next { s with seed := BitVec.ofNat 64 (s.seed.toNat / 2 ^ 32 * 2 ^ 32 + v.toNat) } ∧
      busWrite engine 0x0C 32 v s =
        .next { s with seed := BitVec.ofNat 64 (v.toNat * 2 ^ 32 + s.seed.toNat % 2 ^ 32) } ∧
      busWrite engine 0x10 32 v s = .next { s with minReg := v } ∧
      busWrite engine 0x14 32 v s = .next { s with maxReg := v }) ∧
    ∀ off ∈ [(0x04 : Offset), 0x18, 0x1C, 0x20, 0x24, 0x28, 0x2C, 0x30, 0x34, 0x38, 0x3C],
      busWrite engine off 32 v s = .next s

/-- R67: a write to `CMD` or an operand register while `BUSY = 1` is dropped and raises code 2 with the offset; the pending
command then completes with the operands it was accepted with, as if the write had not been made. -/
def Obligations.WritesWhileBusyAreDropped : Prop :=
  ∀ (engine : Bool) (off : Offset) (v : Word) (s : State), s.serves = true → s.busy = true →
    off ∈ [(0x00 : Offset), 0x08, 0x0C, 0x10, 0x14] →
    ∃ t, busWrite engine off 32 v s = .next t ∧
      t = (if s.errCode = 0 then { s with errCode := 2, errInfo := off.setWidth 32 } else s) ∧
      ∀ u, completePending s = .next u →
        completePending t = .next { u with errCode := t.errCode, errInfo := t.errInfo }

/-- R68: while `BUSY = 1`, `STATUS` shows `BUSY` and `ERR_CODE` exactly and each of `SEEDED` and `SAVED_VALID` as before or
as after the pending command; the operand registers and `ERR_INFO` read exactly. The eight words R68 calls unspecified
return a free value: what a statement may say of them is that the read changes nothing of the block. -/
def Obligations.ReadsWhileBusy : Prop :=
  ∀ (s : State) (off : Offset), s.serves = true → s.busy = true → off.toNat % 4 = 0 →
    ∃ v, busRead off 32 s = { s with reads := v :: s.reads, free := s.free + 1 } ∧
      (off = 0x04 →
        v.getLsbD 0 = true ∧ v.extractLsb' 8 4 = s.errCode ∧
        (v.getLsbD 1 = s.seeded ∨ v.getLsbD 1 = (afterPending s).seeded) ∧
        (v.getLsbD 2 = s.savedValid ∨ v.getLsbD 2 = (afterPending s).savedValid) ∧
        v.extractLsb' 3 5 = 0 ∧ v.extractLsb' 12 20 = 0) ∧
      (off = 0x08 → v = BitVec.ofNat 32 s.seed.toNat) ∧ (off = 0x0C → v = BitVec.ofNat 32 (s.seed.toNat / 2 ^ 32)) ∧
      (off = 0x10 → v = s.minReg) ∧ (off = 0x14 → v = s.maxReg) ∧ (off = 0x38 → v = s.errInfo) ∧
      (off = 0x00 ∨ off = 0x3C → v = 0)

/-- 20_memory.md §3 (R65, R78): a read, a `WAIT` poll and an illegal access change no register of the block, in any state
and whatever they return. -/
def Obligations.ReadsHaveNoSideEffect : Prop :=
  ∀ (engine : Bool) (off : Offset) (width : Nat) (s t : State),
    hostDoes engine (.read off width) s = .next t ∨ hostDoes engine .wait s = .next t →
    t.block = s.block ∧ t.rst = s.rst ∧ t.timeS = s.timeS ∧ t.env = s.env

/-- 20_memory.md §2 and §3 (R64, R69, R80): the two words of a 64-bit register, read one after the other with no command
pending, join to its value, the low half at the lower offset. -/
def Obligations.SplitReadsJoin : Prop :=
  ∀ (s : State) (off : Offset) (d : DWord) (rest : List HostAct),
    s.serves = true → s.busy = false →
    (off, d) ∈ [((0x08 : Offset), s.seed), (0x18, s.result), (0x28, s.ctr)] →
    s.host = .read off 32 :: .read (off + 4) 32 :: rest →
    ∃ t lo hi, steps 2 s = .next t ∧ t.reads = hi :: lo :: s.reads ∧ t.host = rest ∧ t.block = s.block ∧
      d.toNat = hi.toNat * 2 ^ 32 + lo.toNat

/-! ### Reset -/

/-- R42: the value of every piece of the block's state after reset, and what the sixteen words then read. -/
def Obligations.ResetValues : Prop :=
  let r := State.reset
  r.state = 0 ∧ r.incr = 0 ∧ r.ctr = 0 ∧ r.saved = 0 ∧ r.savedValid = false ∧ r.seeded = false ∧
  r.hacc = 0xFFFFFFFF ∧ r.seed = 0 ∧ r.minReg = 0 ∧ r.maxReg = 0x000000FF ∧ r.result = 0 ∧ r.errCode = 0 ∧
  r.errInfo = 0 ∧ r.busy = false ∧
  (∀ x : RegName, readWord x r = if x = .max then 0x000000FF else 0x00000000)

/-- R240 and R241: the event on `RST` puts every register at its reset value, discards a pending command with none of its
effect, and clears the error record; it takes no time sample. The model's conventions that the host's program, the recorded
bus faults and the inputs are not the block's (log entries 7, 9) are stated with it. -/
def Obligations.ResetDiscardsPendingCommand : Prop :=
  ∀ (engine : Bool) (s : State),
    (∃ t, hostDoes engine .reset s = .next t ∧ t.block = State.reset.block ∧ t.busy = false ∧ t.rst = false ∧
      t.timeS = s.timeS ∧ t.host = s.host ∧ t.reads = s.reads ∧ t.busFaults = s.busFaults) ∧
    ∃ t, hostDoes engine .assertRst s = .next t ∧ t.block = State.reset.block ∧ t.busy = false ∧ t.rst = true

/-- 70_reset_and_hazards.md §1 (R240): while `RST` is asserted every aligned 32-bit write is ignored and every aligned
32-bit read returns 0, in every state; that a `WAIT` then finishes is log entry 8. -/
def Obligations.HeldResetIgnoresAccesses : Prop :=
  ∀ (engine : Bool) (off : Offset) (v : Word) (s : State), s.rst = true → off.toNat % 4 = 0 →
    hostDoes engine (.write off 32 v) s = .next s ∧
    hostDoes engine (.read off 32) s = .next { s with reads := 0 :: s.reads } ∧
    hostDoes engine .wait s = .next s

/-- R242: only the event on `RST` clears the error record, `SEEDED` or `SAVED_VALID`, and it clears all of them. A step
in which the power goes is set apart: there all state is lost (R227), not cleared. -/
def Obligations.OnlyResetClears : Prop :=
  (∀ s t : State, step s = .next t → s.actNow ≠ some .powerCycle →
    (s.errCode ≠ 0 ∧ (t.errCode ≠ s.errCode ∨ t.errInfo ≠ s.errInfo)) ∨ (s.seeded = true ∧ t.seeded = false) ∨
      (s.savedValid = true ∧ t.savedValid = false) →
    s.resetsNext = true) ∧
  ∀ (engine : Bool) (s : State), ∃ t, hostDoes engine .reset s = .next t ∧
    t.errCode = 0 ∧ t.errInfo = 0 ∧ t.seeded = false ∧ t.savedValid = false

/-- R215: while an error is recorded and `RST` stays released, no command runs: a `CMD` write with `BUSY = 0` is ignored,
operand writes and reads work, later errors are not recorded, and the record stays until a reset. -/
def Obligations.ErrorsAreSticky : Prop :=
  (∀ s t : State, step s = .next t → s.actNow ≠ some .powerCycle → s.errCode ≠ 0 → s.resetsNext = false →
    t.errCode = s.errCode ∧ t.errInfo = s.errInfo) ∧
  ∀ (engine : Bool) (v : Word) (s : State), s.serves = true → s.busy = false → s.errCode ≠ 0 →
    busWrite engine 0x00 32 v s = .next s ∧
    busWrite engine 0x10 32 v s = .next { s with minReg := v } ∧
    busWrite engine 0x14 32 v s = .next { s with maxReg := v } ∧
    (∃ d, busWrite engine 0x08 32 v s = .next { s with seed := d } ∧ BitVec.ofNat 32 d.toNat = v) ∧
    (∃ d, busWrite engine 0x0C 32 v s = .next { s with seed := d } ∧ BitVec.ofNat 32 (d.toNat / 2 ^ 32) = v) ∧
    (∀ off : Offset, off.toNat % 4 = 0 →
      busRead off 32 s = { s with reads := regContent (RegName.ofOffset off) s :: s.reads }) ∧
    ∀ (e : ErrorCode) (info : Word), raiseError e info s = s

/-- 60_exceptions.md §4 (R228): in a run without a reset or a loss of power, a clean end (no error and no bus fault
recorded) means that every state on the way was clean: neither record is ever cleared by a step. -/
def Obligations.CleanEndMeansCleanRun : Prop :=
  ∀ (j k : Nat) (s u t : State), .reset ∉ s.host → .assertRst ∉ s.host → .powerCycle ∉ s.host →
    steps j s = .next u → steps k u = .next t → t.Clean → u.Clean

/-- 70_reset_and_hazards.md §3 (R245, R246): a step whose host act breaks neither hazard records no bus fault and no code 2,
and a read other than of `STATUS` returns the register's content. -/
def Obligations.SafeActsMeetNoHazard : Prop :=
  ∀ s t : State, s.nextActSafe = true → step s = .next t →
    t.busFaults = s.busFaults ∧ (s.errCode ≠ 2 → t.errCode ≠ 2) ∧
    (t.reads = s.reads ∨
      ∃ off rest, s.host = .read off 32 :: rest ∧
        (s.rst = false → off ≠ 0x04 → t.reads = regContent (RegName.ofOffset off) s :: s.reads))

/-- 60_exceptions.md §4 (R227) and 70_reset_and_hazards.md §2 (R243): a loss of power loses all state of the block (what it
holds afterwards does not depend on what it held), and until a reset a write has no effect, a read changes nothing and no
command completes; the reset gives the reset values. That a bus fault is still recorded, that the host and its records stay,
and that accesses before the reset are answered so at all, are log entry 23: the model's choices. -/
def Obligations.PowerLossNeedsReset : Prop :=
  (∀ (engine : Bool) (s s' : State), s.free = s'.free →
    ∃ t t', hostDoes engine .powerCycle s = .next t ∧ hostDoes engine .powerCycle s' = .next t' ∧ t.lost = true ∧
      t.block = t'.block ∧ t.rst = s.rst ∧ t.timeS = s.timeS ∧ t.host = s.host ∧ t.env = s.env ∧ t.reads = s.reads ∧
      t.busFaults = s.busFaults) ∧
  (∀ s : State, s.lost = true →
    (∀ (engine : Bool) (off : Offset) (v : Word), off.toNat % 4 = 0 → hostDoes engine (.write off 32 v) s = .next s) ∧
    (∀ i : Instr, exec i s = .next s) ∧
    (∀ t : State, step s = .next t → t.lost = true → s.actNow ≠ some .powerCycle → t.block = s.block) ∧
    ∀ engine : Bool, ∃ t, hostDoes engine .reset s = .next t ∧ t.block = State.reset.block ∧ t.serves = true) ∧
  ∀ s t : State, step s = .next t → s.lost = true → t.lost = false → s.resetsNext = true

/-! ### Steps -/

/-- 20_memory.md §4 (R70): when the host acts and its next act writes a word that decodes to `i` to `CMD`, the step is
`exec i` on the state with the turn taken and the act done, if it is the engine's turn (or if `BUSY = 1`: a rejection); at the
host's turn an idle block only accepts. R70 permits the fusion of acceptance and completion; that it happens exactly at an
engine's turn is the model's choice (log entries 14 and 1). -/
def Obligations.StepRunsTheDecodedCommand : Prop :=
  ∀ (s : State) (w : Word) (i : Instr) (rest : List HostAct),
    s.host = .write 0x00 32 w :: rest → decode w = .ok i → engineCompletes s = false →
    (engineActs s = true ∨ s.busy = true → step s = exec i { takeTurn s with host := rest }) ∧
    (engineActs s = false → step s = .next (acceptOnly i { takeTurn s with host := rest }))

/-- 20_memory.md §4 (R70): acceptance followed by completion is the command as one step; a rejected command is the same at
acceptance alone. -/
def Obligations.AcceptThenCompleteIsExec : Prop :=
  ∀ (i : Instr) (s : State), s.busy = false →
    ((acceptOnly i s).busy = true → completePending (acceptOnly i s) = exec i s) ∧
    ((acceptOnly i s).busy = false → exec i s = .next (acceptOnly i s)) ∧
    ((acceptOnly i s).busy = true →
      acceptOnly i s = { s with busy := true, pend := encode i, pendT := (acceptOnly i s).pendT })

/-- 20_memory.md §4 (R70): when the engine completes the pending command, its whole effect appears at once and `BUSY` falls;
the host's program does not move (the turns are log entry 1). -/
def Obligations.EngineCompletesThePendingCommand : Prop :=
  ∀ (s : State) (i : Instr), engineCompletes s = true → s.pend = encode i →
    ∃ t, step s = .next t ∧ t.busy = false ∧ t.host = s.host ∧ t.reads = s.reads ∧
      t.visible = { effectOf i s with busy := false }.visible

/-- 70_reset_and_hazards.md §4 (R253), 20_memory.md §4 (R67, R70): a pending command's whole effect is there after at most
one step more than the turns listed, whatever the host writes meanwhile (a write that is dropped can only record code 2),
unless the host's acts so far hold a reset or a loss of power. That a turn past the list is the engine's, and so the bound, is
log entry 1. -/
def Obligations.PendingCommandsComplete : Prop :=
  ∀ (s : State) (i : Instr), s.lost = false → s.busy = true → s.pend = encode i →
    ∃ k t done, k ≤ s.env.length + 1 ∧ steps k s = .next t ∧ s.host = done ++ t.host ∧
      ((t.busy = false ∧
        t.visible = { effectOf i s with busy := false, errCode := t.errCode, errInfo := t.errInfo }.visible ∧
        (t.errCode = s.errCode ∧ t.errInfo = s.errInfo ∨ s.errCode = 0 ∧ t.errCode = 2)) ∨
      ∃ a ∈ done, a = .powerCycle ∨ a.isReset = true)

/-- 20_memory.md §4 (R72): after a `CMD` write and the `WAIT` that follows it, whatever the turns are (log entry 1), no
command is pending and the block is as `exec` leaves it: the command's whole effect is there. A `WAIT` with no command pending finishes after one poll. -/
def Obligations.WaitMakesEffectsVisible : Prop :=
  (∀ (s : State) (rest : List HostAct), s.serves = true → s.busy = false → s.host = .wait :: rest →
    step s = .next { takeTurn s with host := rest }) ∧
  ∀ (s : State) (i : Instr) (rest : List HostAct),
    s.serves = true → s.busy = false → s.host = .write 0x00 32 (encode i) :: .wait :: rest →
    ∃ k t u, steps k s = .next t ∧ exec i (takeTurn s) = .next u ∧
      t.host = rest ∧ t.busy = false ∧ t.serves = true ∧ t.visible = u.visible

/-- 20_memory.md §5 (R73): what a program of the document's operations (none of them seeding from the clock) leaves in the
block, and what its reads return, do not depend on the turns (log entry 1), that is, on `CMD_LATENCY`. -/
def Obligations.OutcomeIgnoresLatency : Prop :=
  ∀ (s : State) (ops : List PublicOp) (e e' : List Turn),
    s.serves = true → s.busy = false → .construct .clock ∉ ops → .reseed .clock ∉ ops →
    s.host = ops.flatMap PublicOp.acts →
    ∃ k k' t t', steps k { s with env := e } = .next t ∧ steps k' { s with env := e' } = .next t' ∧
      t.host = [] ∧ t'.host = [] ∧ t.busy = false ∧ t'.busy = false ∧
      t.visible = t'.visible ∧ t.reads = t'.reads

/-- 70_reset_and_hazards.md §2 (R244): `construct(v)` with an integer seed leaves, from every state of the invariant (a
block that has lost its state among them) and whatever the turns are (log entry 1), a block like one just reset but for
`SEED`, `STATE` and `SEEDED`. -/
def Obligations.ConstructionYieldsAFreshInstance : Prop :=
  ∀ (s : State) (v : Int) (rest : List HostAct), s.Inv → v.natAbs < 2 ^ 32 →
    s.host = PublicOp.acts (.construct (.integer v)) ++ rest →
    ∃ k t, steps k s = .next t ∧ t.host = rest ∧
      t.visible =
        { State.reset with seed := BitVec.ofInt 64 v, state := BitVec.ofNat 32 v.natAbs, seeded := true }.visible

/-- 42_generation.md §2 (R170): `NEXT_BYTES n, r` on a seeded block, whatever the turns are (log entry 1), makes `n` draws
and returns `n` words, each in its range; with `n = 0` it does nothing. -/
def Obligations.NextBytesReturnsBoundedBytes : Prop :=
  ∀ (n : Nat) (readable : Bool) (s : State) (rest : List HostAct), s.Ready → s.seeded = true →
    s.ctr.toNat + n < 2 ^ 64 → s.host = actsNextBytes n readable ++ rest →
    ∃ k t words, steps k s = .next t ∧ t.host = rest ∧ t.Ready ∧ t.ctr.toNat = s.ctr.toNat + n ∧
      t.reads = words ++ s.reads ∧ words.length = n ∧ (n = 0 → t = s) ∧
      ∀ w ∈ words, if readable then 32 ≤ w.toNat ∧ w.toNat ≤ 126 else w.toNat ≤ 255

/-- Log entry 10: `withFetchWord` makes the very next step run the table's word on the state, served and else unchanged. -/
def Obligations.FetchWordRunsNext : Prop :=
  ∀ (s : State) (w : Nat) (i : Instr), decodeTableWord 32 w = some i →
    step (s.withFetchWord 32 w) = exec i { s with lost := false, rst := false }

/-! ### The invariant -/

/-- 10_state.md §6 and 20_memory.md §4: the state after reset meets the invariant. -/
def Obligations.ResetMeetsInvariant : Prop := State.reset.Inv

/-- Every step keeps the invariant: codes 7 to 15 are never produced, `ERR_INFO` is 0 without an error, an unseeded block
holds its reset values, a pending command can complete, and an asserted `RST` holds the block at reset (nothing is asked of a
block that has lost its state). -/
def Obligations.StepKeepsInvariant : Prop := ∀ s t : State, s.Inv → step s = .next t → t.Inv

/-- R70 ("`Execute` never fails"): from every state of the invariant a step answers a next state: no fault, no refusal. -/
def Obligations.StepNeverStops : Prop := ∀ s : State, s.Inv → ∃ t, step s = .next t

/-- 10_state.md §2 (R27, R28): in a step in which no reset event happens and no power is lost, `CTR` stays, grows by exactly
one without wrapping, or is cleared; it is cleared only by a seeding command, being completed or written. -/
def Obligations.CounterOnlyGrowsOrRestarts : Prop :=
  ∀ s t : State, s.Inv → step s = .next t → s.actNow ≠ some .powerCycle → s.resetsNext = false →
    t.ctr = s.ctr ∨ t.ctr.toNat = s.ctr.toNat + 1 ∨
      (t.ctr = 0 ∧ t.seeded = true ∧
        ∃ i : Instr, isSeeding i = true ∧
          ((s.busy = true ∧ s.pend = encode i) ∨ s.host.head? = some (.write 0x00 32 (encode i))))

end
end

