-- ==== Sys2Proof/Laws/Encoding.lean ====
section
/-! SUPPORT. The words of the commands, written out from 30_encoding.md R94, so that no proof computes `encode`. -/

namespace Sys2Proof

@[simp] theorem encode_nop : encode .nop = 0x00000000#32 := by decide
@[simp] theorem encode_seedInt : encode .seedInt = 0x00000001#32 := by decide
@[simp] theorem encode_seedTime : encode .seedTime = 0x00000002#32 := by decide
@[simp] theorem encode_hashStart : encode .hashStart = 0x00000003#32 := by decide
@[simp] theorem encode_seedHash : encode .seedHash = 0x00000005#32 := by decide
@[simp] theorem encode_nextInt : encode .nextInt = 0x00000006#32 := by decide
@[simp] theorem encode_nextByte_full : encode (.nextByte false) = 0x00000007#32 := by decide
@[simp] theorem encode_nextByte_readable : encode (.nextByte true) = 0x00000107#32 := by decide
@[simp] theorem encode_save : encode .save = 0x00000008#32 := by decide
@[simp] theorem encode_restore : encode .restore = 0x00000009#32 := by decide

/-- The word of a command as a number: `IMM` over `OPC` (R90). -/
theorem encode_toNat (i : Instr) : (encode i).toNat = i.imm.toNat * 2 ^ 8 + i.opc.toNat := by
  unfold encode
  rw [BitVec.toNat_append, ← Nat.shiftLeft_add_eq_or_of_lt i.opc.isLt, BitVec.toNat_append]
  simp [Nat.shiftLeft_eq]

theorem opcField_toNat (w : Word) : (opcField w).toNat = w.toNat % 2 ^ 8 := by
  simp only [opcField, BitVec.extractLsb'_toNat, Nat.shiftRight_eq_div_pow]
  omega

theorem immField_toNat (w : Word) : (immField w).toNat = w.toNat / 2 ^ 8 % 2 ^ 8 := by
  simp only [immField, BitVec.extractLsb'_toNat, Nat.shiftRight_eq_div_pow]

theorem rsvdField_toNat (w : Word) : (rsvdField w).toNat = w.toNat / 2 ^ 16 := by
  have := w.isLt
  simp only [rsvdField, BitVec.extractLsb'_toNat, Nat.shiftRight_eq_div_pow]
  omega

end Sys2Proof
end

