-- ==== Sys2Proof/Laws/Hash.lean ====
section
/-! SUPPORT. The CRC and decimal functions: linearity of the fold, feeding in pieces, the digits' recursion. -/

namespace Sys2Proof.Machine

/-- `fold` is linear over GF(2) (R144). -/
theorem crcFold_xor (a b : Word) : crcFold (a ^^^ b) = crcFold a ^^^ crcFold b := by
  unfold crcFold
  rw [BitVec.getLsbD_xor, BitVec.ushiftRight_xor_distrib]
  cases a.getLsbD 0 <;> cases b.getLsbD 0
  · simp
  · simp [← BitVec.xor_assoc, BitVec.xor_comm (a >>> 1)]
  · simp [BitVec.xor_assoc]
  · simp only [Bool.xor_self, Bool.false_eq_true, if_false, if_true]
    rw [BitVec.xor_comm crcPoly (b >>> 1), ← BitVec.xor_assoc, BitVec.xor_comm crcPoly, BitVec.xor_assoc (a >>> 1),
      BitVec.xor_comm crcPoly, BitVec.xor_assoc, BitVec.xor_assoc, BitVec.xor_self, BitVec.xor_zero]

theorem crcFolds_xor (n : Nat) (a b : Word) : crcFolds n (a ^^^ b) = crcFolds n a ^^^ crcFolds n b := by
  induction n generalizing a b with
  | zero => rfl
  | succ n ih => simp only [crcFolds, crcFold_xor, ih]

/-- Folding a word whose low bit is clear only shifts. -/
theorem crcFold_of_even (v : Word) (h : v.getLsbD 0 = false) : crcFold v = v >>> 1 := by
  rw [crcFold, h]; rfl

theorem crcFeed_append (c : Word) (xs ys : List Byte) : crcFeed c (xs ++ ys) = crcFeed (crcFeed c xs) ys := by
  induction xs generalizing c with
  | nil => rfl
  | cons x xs ih => simp [crcFeed, ih]

theorem crcFinal_crcFinal (c : Word) : crcFinal (crcFinal c) = c := by simp [crcFinal]

theorem decDigits_append (fuel n : Nat) (xs ys : List Byte) :
    decDigits fuel n (xs ++ ys) = decDigits fuel n xs ++ ys := by
  induction fuel generalizing n xs with
  | zero => rfl
  | succ fuel ih =>
    unfold decDigits
    split
    · rfl
    · exact ih (n / 10) (digitByte (n % 10) :: xs)

/-- More fuel than digits changes nothing. -/
theorem decDigits_fuel (fuel fuel' n : Nat) (acc : List Byte) (h : n < fuel) (h' : n < fuel') :
    decDigits fuel n acc = decDigits fuel' n acc := by
  induction fuel generalizing fuel' n acc with
  | zero => omega
  | succ fuel ih =>
    obtain ⟨f, rfl⟩ : ∃ f, fuel' = f + 1 := ⟨fuel' - 1, by omega⟩
    unfold decDigits
    split
    · rfl
    · exact ih f _ _ (by omega) (by omega)

/-- The decimal string of a one-digit number. -/
theorem dec_digit (n : Nat) (h : n < 10) : dec n = [digitByte n] := by
  simp [dec, decDigits, Nat.div_eq_of_lt h, Nat.mod_eq_of_lt h]

/-- The decimal string of a longer number: that of its tenth part, then the last digit. -/
theorem dec_step (n : Nat) (h : 10 ≤ n) : dec n = dec (n / 10) ++ [digitByte (n % 10)] := by
  have h0 : n / 10 ≠ 0 := by omega
  rw [dec, decDigits, if_neg h0, dec, ← decDigits_append,
    decDigits_fuel n (n / 10 + 1) (n / 10) _ (by omega) (by omega)]
  rfl

end Sys2Proof.Machine
end

