-- ==== Sys2Proof/Laws/State.lean ====
section
/-! SUPPORT. One lemma per field per update of the shared operations, so that no later proof unfolds a record update. -/

namespace Sys2Proof.Machine

variable (s : State)

/-! ### `raiseBusFault` -/

@[simp] theorem raiseBusFault_state (off : Offset) : (raiseBusFault off s).state = s.state := rfl
@[simp] theorem raiseBusFault_incr (off : Offset) : (raiseBusFault off s).incr = s.incr := rfl
@[simp] theorem raiseBusFault_ctr (off : Offset) : (raiseBusFault off s).ctr = s.ctr := rfl
@[simp] theorem raiseBusFault_saved (off : Offset) : (raiseBusFault off s).saved = s.saved := rfl
@[simp] theorem raiseBusFault_savedValid (off : Offset) : (raiseBusFault off s).savedValid = s.savedValid := rfl
@[simp] theorem raiseBusFault_seeded (off : Offset) : (raiseBusFault off s).seeded = s.seeded := rfl
@[simp] theorem raiseBusFault_hacc (off : Offset) : (raiseBusFault off s).hacc = s.hacc := rfl
@[simp] theorem raiseBusFault_seed (off : Offset) : (raiseBusFault off s).seed = s.seed := rfl
@[simp] theorem raiseBusFault_minReg (off : Offset) : (raiseBusFault off s).minReg = s.minReg := rfl
@[simp] theorem raiseBusFault_maxReg (off : Offset) : (raiseBusFault off s).maxReg = s.maxReg := rfl
@[simp] theorem raiseBusFault_result (off : Offset) : (raiseBusFault off s).result = s.result := rfl
@[simp] theorem raiseBusFault_errCode (off : Offset) : (raiseBusFault off s).errCode = s.errCode := rfl
@[simp] theorem raiseBusFault_errInfo (off : Offset) : (raiseBusFault off s).errInfo = s.errInfo := rfl
@[simp] theorem raiseBusFault_busy (off : Offset) : (raiseBusFault off s).busy = s.busy := rfl
@[simp] theorem raiseBusFault_pend (off : Offset) : (raiseBusFault off s).pend = s.pend := rfl
@[simp] theorem raiseBusFault_pendT (off : Offset) : (raiseBusFault off s).pendT = s.pendT := rfl
@[simp] theorem raiseBusFault_lost (off : Offset) : (raiseBusFault off s).lost = s.lost := rfl
@[simp] theorem raiseBusFault_rst (off : Offset) : (raiseBusFault off s).rst = s.rst := rfl
@[simp] theorem raiseBusFault_timeS (off : Offset) : (raiseBusFault off s).timeS = s.timeS := rfl
@[simp] theorem raiseBusFault_host (off : Offset) : (raiseBusFault off s).host = s.host := rfl
@[simp] theorem raiseBusFault_env (off : Offset) : (raiseBusFault off s).env = s.env := rfl
@[simp] theorem raiseBusFault_reads (off : Offset) : (raiseBusFault off s).reads = s.reads := rfl
@[simp] theorem raiseBusFault_busFaults (off : Offset) : (raiseBusFault off s).busFaults = off :: s.busFaults := rfl
@[simp] theorem raiseBusFault_free (off : Offset) : (raiseBusFault off s).free = s.free := rfl

/-! ### `accept` -/

@[simp] theorem accept_state (i : Instr) : (accept i s).state = s.state := rfl
@[simp] theorem accept_incr (i : Instr) : (accept i s).incr = s.incr := rfl
@[simp] theorem accept_ctr (i : Instr) : (accept i s).ctr = s.ctr := rfl
@[simp] theorem accept_saved (i : Instr) : (accept i s).saved = s.saved := rfl
@[simp] theorem accept_savedValid (i : Instr) : (accept i s).savedValid = s.savedValid := rfl
@[simp] theorem accept_seeded (i : Instr) : (accept i s).seeded = s.seeded := rfl
@[simp] theorem accept_hacc (i : Instr) : (accept i s).hacc = s.hacc := rfl
@[simp] theorem accept_seed (i : Instr) : (accept i s).seed = s.seed := rfl
@[simp] theorem accept_minReg (i : Instr) : (accept i s).minReg = s.minReg := rfl
@[simp] theorem accept_maxReg (i : Instr) : (accept i s).maxReg = s.maxReg := rfl
@[simp] theorem accept_result (i : Instr) : (accept i s).result = s.result := rfl
@[simp] theorem accept_errCode (i : Instr) : (accept i s).errCode = s.errCode := rfl
@[simp] theorem accept_errInfo (i : Instr) : (accept i s).errInfo = s.errInfo := rfl
@[simp] theorem accept_busy (i : Instr) : (accept i s).busy = true := rfl
@[simp] theorem accept_pend (i : Instr) : (accept i s).pend = encode i := rfl
@[simp] theorem accept_pendT (i : Instr) : (accept i s).pendT = if i = .seedTime then s.timeS else s.pendT := rfl
@[simp] theorem accept_lost (i : Instr) : (accept i s).lost = s.lost := rfl
@[simp] theorem accept_rst (i : Instr) : (accept i s).rst = s.rst := rfl
@[simp] theorem accept_timeS (i : Instr) : (accept i s).timeS = s.timeS := rfl
@[simp] theorem accept_host (i : Instr) : (accept i s).host = s.host := rfl
@[simp] theorem accept_env (i : Instr) : (accept i s).env = s.env := rfl
@[simp] theorem accept_reads (i : Instr) : (accept i s).reads = s.reads := rfl
@[simp] theorem accept_busFaults (i : Instr) : (accept i s).busFaults = s.busFaults := rfl
@[simp] theorem accept_free (i : Instr) : (accept i s).free = s.free := rfl

/-! ### `seedWith` -/

@[simp] theorem seedWith_state (v : Nat) : (seedWith v s).state = BitVec.ofNat 32 v := rfl
@[simp] theorem seedWith_incr (v : Nat) : (seedWith v s).incr = s.incr := rfl
@[simp] theorem seedWith_ctr (v : Nat) : (seedWith v s).ctr = 0 := rfl
@[simp] theorem seedWith_saved (v : Nat) : (seedWith v s).saved = s.saved := rfl
@[simp] theorem seedWith_savedValid (v : Nat) : (seedWith v s).savedValid = s.savedValid := rfl
@[simp] theorem seedWith_seeded (v : Nat) : (seedWith v s).seeded = true := rfl
@[simp] theorem seedWith_hacc (v : Nat) : (seedWith v s).hacc = s.hacc := rfl
@[simp] theorem seedWith_seed (v : Nat) : (seedWith v s).seed = s.seed := rfl
@[simp] theorem seedWith_minReg (v : Nat) : (seedWith v s).minReg = s.minReg := rfl
@[simp] theorem seedWith_maxReg (v : Nat) : (seedWith v s).maxReg = s.maxReg := rfl
@[simp] theorem seedWith_result (v : Nat) : (seedWith v s).result = s.result := rfl
@[simp] theorem seedWith_errCode (v : Nat) : (seedWith v s).errCode = s.errCode := rfl
@[simp] theorem seedWith_errInfo (v : Nat) : (seedWith v s).errInfo = s.errInfo := rfl
@[simp] theorem seedWith_busy (v : Nat) : (seedWith v s).busy = s.busy := rfl
@[simp] theorem seedWith_pend (v : Nat) : (seedWith v s).pend = s.pend := rfl
@[simp] theorem seedWith_pendT (v : Nat) : (seedWith v s).pendT = s.pendT := rfl
@[simp] theorem seedWith_lost (v : Nat) : (seedWith v s).lost = s.lost := rfl
@[simp] theorem seedWith_rst (v : Nat) : (seedWith v s).rst = s.rst := rfl
@[simp] theorem seedWith_timeS (v : Nat) : (seedWith v s).timeS = s.timeS := rfl
@[simp] theorem seedWith_host (v : Nat) : (seedWith v s).host = s.host := rfl
@[simp] theorem seedWith_env (v : Nat) : (seedWith v s).env = s.env := rfl
@[simp] theorem seedWith_reads (v : Nat) : (seedWith v s).reads = s.reads := rfl
@[simp] theorem seedWith_busFaults (v : Nat) : (seedWith v s).busFaults = s.busFaults := rfl
@[simp] theorem seedWith_free (v : Nat) : (seedWith v s).free = s.free := rfl

/-! ### `drawWith` -/

@[simp] theorem drawWith_state (lo hi : Int) : (drawWith lo hi s).state = lcgNext s.state (drawIncrement s.ctr s.state) := rfl
@[simp] theorem drawWith_incr (lo hi : Int) : (drawWith lo hi s).incr = drawIncrement s.ctr s.state := rfl
@[simp] theorem drawWith_ctr (lo hi : Int) : (drawWith lo hi s).ctr = BitVec.ofNat 64 (s.ctr.toNat + 1) := rfl
@[simp] theorem drawWith_saved (lo hi : Int) : (drawWith lo hi s).saved = s.saved := rfl
@[simp] theorem drawWith_savedValid (lo hi : Int) : (drawWith lo hi s).savedValid = s.savedValid := rfl
@[simp] theorem drawWith_seeded (lo hi : Int) : (drawWith lo hi s).seeded = s.seeded := rfl
@[simp] theorem drawWith_hacc (lo hi : Int) : (drawWith lo hi s).hacc = s.hacc := rfl
@[simp] theorem drawWith_seed (lo hi : Int) : (drawWith lo hi s).seed = s.seed := rfl
@[simp] theorem drawWith_minReg (lo hi : Int) : (drawWith lo hi s).minReg = s.minReg := rfl
@[simp] theorem drawWith_maxReg (lo hi : Int) : (drawWith lo hi s).maxReg = s.maxReg := rfl
@[simp] theorem drawWith_result (lo hi : Int) : (drawWith lo hi s).result = BitVec.ofInt 64 (mapRange (lcgNext s.state (drawIncrement s.ctr s.state)).toNat lo hi) := rfl
@[simp] theorem drawWith_errCode (lo hi : Int) : (drawWith lo hi s).errCode = s.errCode := rfl
@[simp] theorem drawWith_errInfo (lo hi : Int) : (drawWith lo hi s).errInfo = s.errInfo := rfl
@[simp] theorem drawWith_busy (lo hi : Int) : (drawWith lo hi s).busy = s.busy := rfl
@[simp] theorem drawWith_pend (lo hi : Int) : (drawWith lo hi s).pend = s.pend := rfl
@[simp] theorem drawWith_pendT (lo hi : Int) : (drawWith lo hi s).pendT = s.pendT := rfl
@[simp] theorem drawWith_lost (lo hi : Int) : (drawWith lo hi s).lost = s.lost := rfl
@[simp] theorem drawWith_rst (lo hi : Int) : (drawWith lo hi s).rst = s.rst := rfl
@[simp] theorem drawWith_timeS (lo hi : Int) : (drawWith lo hi s).timeS = s.timeS := rfl
@[simp] theorem drawWith_host (lo hi : Int) : (drawWith lo hi s).host = s.host := rfl
@[simp] theorem drawWith_env (lo hi : Int) : (drawWith lo hi s).env = s.env := rfl
@[simp] theorem drawWith_reads (lo hi : Int) : (drawWith lo hi s).reads = s.reads := rfl
@[simp] theorem drawWith_busFaults (lo hi : Int) : (drawWith lo hi s).busFaults = s.busFaults := rfl
@[simp] theorem drawWith_free (lo hi : Int) : (drawWith lo hi s).free = s.free := rfl

/-! ### `complete` -/

@[simp] theorem complete_state (k : State → State) : (complete k s).state = (k s).state := rfl
@[simp] theorem complete_incr (k : State → State) : (complete k s).incr = (k s).incr := rfl
@[simp] theorem complete_ctr (k : State → State) : (complete k s).ctr = (k s).ctr := rfl
@[simp] theorem complete_saved (k : State → State) : (complete k s).saved = (k s).saved := rfl
@[simp] theorem complete_savedValid (k : State → State) : (complete k s).savedValid = (k s).savedValid := rfl
@[simp] theorem complete_seeded (k : State → State) : (complete k s).seeded = (k s).seeded := rfl
@[simp] theorem complete_hacc (k : State → State) : (complete k s).hacc = (k s).hacc := rfl
@[simp] theorem complete_seed (k : State → State) : (complete k s).seed = (k s).seed := rfl
@[simp] theorem complete_minReg (k : State → State) : (complete k s).minReg = (k s).minReg := rfl
@[simp] theorem complete_maxReg (k : State → State) : (complete k s).maxReg = (k s).maxReg := rfl
@[simp] theorem complete_result (k : State → State) : (complete k s).result = (k s).result := rfl
@[simp] theorem complete_errCode (k : State → State) : (complete k s).errCode = (k s).errCode := rfl
@[simp] theorem complete_errInfo (k : State → State) : (complete k s).errInfo = (k s).errInfo := rfl
@[simp] theorem complete_busy (k : State → State) : (complete k s).busy = false := rfl
@[simp] theorem complete_pend (k : State → State) : (complete k s).pend = (k s).pend := rfl
@[simp] theorem complete_pendT (k : State → State) : (complete k s).pendT = (k s).pendT := rfl
@[simp] theorem complete_lost (k : State → State) : (complete k s).lost = (k s).lost := rfl
@[simp] theorem complete_rst (k : State → State) : (complete k s).rst = (k s).rst := rfl
@[simp] theorem complete_timeS (k : State → State) : (complete k s).timeS = (k s).timeS := rfl
@[simp] theorem complete_host (k : State → State) : (complete k s).host = (k s).host := rfl
@[simp] theorem complete_env (k : State → State) : (complete k s).env = (k s).env := rfl
@[simp] theorem complete_reads (k : State → State) : (complete k s).reads = (k s).reads := rfl
@[simp] theorem complete_busFaults (k : State → State) : (complete k s).busFaults = (k s).busFaults := rfl
@[simp] theorem complete_free (k : State → State) : (complete k s).free = (k s).free := rfl

/-! ### `resetBlock` -/

@[simp] theorem resetBlock_state : (resetBlock s).state = State.reset.state := rfl
@[simp] theorem resetBlock_incr : (resetBlock s).incr = State.reset.incr := rfl
@[simp] theorem resetBlock_ctr : (resetBlock s).ctr = State.reset.ctr := rfl
@[simp] theorem resetBlock_saved : (resetBlock s).saved = State.reset.saved := rfl
@[simp] theorem resetBlock_savedValid : (resetBlock s).savedValid = State.reset.savedValid := rfl
@[simp] theorem resetBlock_seeded : (resetBlock s).seeded = State.reset.seeded := rfl
@[simp] theorem resetBlock_hacc : (resetBlock s).hacc = State.reset.hacc := rfl
@[simp] theorem resetBlock_seed : (resetBlock s).seed = State.reset.seed := rfl
@[simp] theorem resetBlock_minReg : (resetBlock s).minReg = State.reset.minReg := rfl
@[simp] theorem resetBlock_maxReg : (resetBlock s).maxReg = State.reset.maxReg := rfl
@[simp] theorem resetBlock_result : (resetBlock s).result = State.reset.result := rfl
@[simp] theorem resetBlock_errCode : (resetBlock s).errCode = State.reset.errCode := rfl
@[simp] theorem resetBlock_errInfo : (resetBlock s).errInfo = State.reset.errInfo := rfl
@[simp] theorem resetBlock_busy : (resetBlock s).busy = State.reset.busy := rfl
@[simp] theorem resetBlock_pend : (resetBlock s).pend = State.reset.pend := rfl
@[simp] theorem resetBlock_pendT : (resetBlock s).pendT = State.reset.pendT := rfl
@[simp] theorem resetBlock_lost : (resetBlock s).lost = State.reset.lost := rfl
@[simp] theorem resetBlock_rst : (resetBlock s).rst = s.rst := rfl
@[simp] theorem resetBlock_timeS : (resetBlock s).timeS = s.timeS := rfl
@[simp] theorem resetBlock_host : (resetBlock s).host = s.host := rfl
@[simp] theorem resetBlock_env : (resetBlock s).env = s.env := rfl
@[simp] theorem resetBlock_reads : (resetBlock s).reads = s.reads := rfl
@[simp] theorem resetBlock_busFaults : (resetBlock s).busFaults = s.busFaults := rfl
@[simp] theorem resetBlock_free : (resetBlock s).free = s.free := rfl

/-! ### `raiseError`: every field but the error record is as before -/

@[simp] theorem raiseError_state (e : ErrorCode) (info : Word) : (raiseError e info s).state = s.state := by
  unfold raiseError; split <;> rfl
@[simp] theorem raiseError_incr (e : ErrorCode) (info : Word) : (raiseError e info s).incr = s.incr := by
  unfold raiseError; split <;> rfl
@[simp] theorem raiseError_ctr (e : ErrorCode) (info : Word) : (raiseError e info s).ctr = s.ctr := by
  unfold raiseError; split <;> rfl
@[simp] theorem raiseError_saved (e : ErrorCode) (info : Word) : (raiseError e info s).saved = s.saved := by
  unfold raiseError; split <;> rfl
@[simp] theorem raiseError_savedValid (e : ErrorCode) (info : Word) : (raiseError e info s).savedValid = s.savedValid := by
  unfold raiseError; split <;> rfl
@[simp] theorem raiseError_seeded (e : ErrorCode) (info : Word) : (raiseError e info s).seeded = s.seeded := by
  unfold raiseError; split <;> rfl
@[simp] theorem raiseError_hacc (e : ErrorCode) (info : Word) : (raiseError e info s).hacc = s.hacc := by
  unfold raiseError; split <;> rfl
@[simp] theorem raiseError_seed (e : ErrorCode) (info : Word) : (raiseError e info s).seed = s.seed := by
  unfold raiseError; split <;> rfl
@[simp] theorem raiseError_minReg (e : ErrorCode) (info : Word) : (raiseError e info s).minReg = s.minReg := by
  unfold raiseError; split <;> rfl
@[simp] theorem raiseError_maxReg (e : ErrorCode) (info : Word) : (raiseError e info s).maxReg = s.maxReg := by
  unfold raiseError; split <;> rfl
@[simp] theorem raiseError_result (e : ErrorCode) (info : Word) : (raiseError e info s).result = s.result := by
  unfold raiseError; split <;> rfl
@[simp] theorem raiseError_busy (e : ErrorCode) (info : Word) : (raiseError e info s).busy = s.busy := by
  unfold raiseError; split <;> rfl
@[simp] theorem raiseError_pend (e : ErrorCode) (info : Word) : (raiseError e info s).pend = s.pend := by
  unfold raiseError; split <;> rfl
@[simp] theorem raiseError_pendT (e : ErrorCode) (info : Word) : (raiseError e info s).pendT = s.pendT := by
  unfold raiseError; split <;> rfl
@[simp] theorem raiseError_lost (e : ErrorCode) (info : Word) : (raiseError e info s).lost = s.lost := by
  unfold raiseError; split <;> rfl
@[simp] theorem raiseError_rst (e : ErrorCode) (info : Word) : (raiseError e info s).rst = s.rst := by
  unfold raiseError; split <;> rfl
@[simp] theorem raiseError_timeS (e : ErrorCode) (info : Word) : (raiseError e info s).timeS = s.timeS := by
  unfold raiseError; split <;> rfl
@[simp] theorem raiseError_host (e : ErrorCode) (info : Word) : (raiseError e info s).host = s.host := by
  unfold raiseError; split <;> rfl
@[simp] theorem raiseError_env (e : ErrorCode) (info : Word) : (raiseError e info s).env = s.env := by
  unfold raiseError; split <;> rfl
@[simp] theorem raiseError_reads (e : ErrorCode) (info : Word) : (raiseError e info s).reads = s.reads := by
  unfold raiseError; split <;> rfl
@[simp] theorem raiseError_busFaults (e : ErrorCode) (info : Word) : (raiseError e info s).busFaults = s.busFaults := by
  unfold raiseError; split <;> rfl
@[simp] theorem raiseError_free (e : ErrorCode) (info : Word) : (raiseError e info s).free = s.free := by
  unfold raiseError; split <;> rfl

theorem raiseError_first (e : ErrorCode) (info : Word) (h : s.errCode = 0) :
    raiseError e info s = { s with errCode := e.bits, errInfo := info } := if_pos h

theorem raiseError_later (e : ErrorCode) (info : Word) (h : s.errCode ≠ 0) : raiseError e info s = s := if_neg h

/-! ### `takeTurn`: every field but the input `TIME_S`, the turns and the count is as before -/

@[simp] theorem takeTurn_state : (takeTurn s).state = s.state := by
  unfold takeTurn; split <;> rfl
@[simp] theorem takeTurn_incr : (takeTurn s).incr = s.incr := by
  unfold takeTurn; split <;> rfl
@[simp] theorem takeTurn_ctr : (takeTurn s).ctr = s.ctr := by
  unfold takeTurn; split <;> rfl
@[simp] theorem takeTurn_saved : (takeTurn s).saved = s.saved := by
  unfold takeTurn; split <;> rfl
@[simp] theorem takeTurn_savedValid : (takeTurn s).savedValid = s.savedValid := by
  unfold takeTurn; split <;> rfl
@[simp] theorem takeTurn_seeded : (takeTurn s).seeded = s.seeded := by
  unfold takeTurn; split <;> rfl
@[simp] theorem takeTurn_hacc : (takeTurn s).hacc = s.hacc := by
  unfold takeTurn; split <;> rfl
@[simp] theorem takeTurn_seed : (takeTurn s).seed = s.seed := by
  unfold takeTurn; split <;> rfl
@[simp] theorem takeTurn_minReg : (takeTurn s).minReg = s.minReg := by
  unfold takeTurn; split <;> rfl
@[simp] theorem takeTurn_maxReg : (takeTurn s).maxReg = s.maxReg := by
  unfold takeTurn; split <;> rfl
@[simp] theorem takeTurn_result : (takeTurn s).result = s.result := by
  unfold takeTurn; split <;> rfl
@[simp] theorem takeTurn_errCode : (takeTurn s).errCode = s.errCode := by
  unfold takeTurn; split <;> rfl
@[simp] theorem takeTurn_errInfo : (takeTurn s).errInfo = s.errInfo := by
  unfold takeTurn; split <;> rfl
@[simp] theorem takeTurn_busy : (takeTurn s).busy = s.busy := by
  unfold takeTurn; split <;> rfl
@[simp] theorem takeTurn_pend : (takeTurn s).pend = s.pend := by
  unfold takeTurn; split <;> rfl
@[simp] theorem takeTurn_pendT : (takeTurn s).pendT = s.pendT := by
  unfold takeTurn; split <;> rfl
@[simp] theorem takeTurn_lost : (takeTurn s).lost = s.lost := by
  unfold takeTurn; split <;> rfl
@[simp] theorem takeTurn_rst : (takeTurn s).rst = s.rst := by
  unfold takeTurn; split <;> rfl
@[simp] theorem takeTurn_host : (takeTurn s).host = s.host := by
  unfold takeTurn; split <;> rfl
@[simp] theorem takeTurn_reads : (takeTurn s).reads = s.reads := by
  unfold takeTurn; split <;> rfl
@[simp] theorem takeTurn_busFaults : (takeTurn s).busFaults = s.busFaults := by
  unfold takeTurn; split <;> rfl

theorem takeTurn_of_cons (t : Turn) (rest : List Turn) (h : s.env = t :: rest) :
    takeTurn s = { s with timeS := t.timeS, env := rest } := by simp [takeTurn, h]

theorem takeTurn_env_length : (takeTurn s).env.length = s.env.length - 1 := by
  unfold takeTurn; split <;> simp_all

theorem engineActs_of_nil (h : s.env = []) : engineActs s = true := by simp [engineActs, h]

theorem engineActs_of_cons (t : Turn) (rest : List Turn) (h : s.env = t :: rest) : engineActs s = t.engine := by
  simp [engineActs, h]

/-! ### `loseState`: what is not the block's stays -/

@[simp] theorem loseState_lost : (loseState s).lost = true := rfl
@[simp] theorem loseState_rst : (loseState s).rst = s.rst := rfl
@[simp] theorem loseState_timeS : (loseState s).timeS = s.timeS := rfl
@[simp] theorem loseState_host : (loseState s).host = s.host := rfl
@[simp] theorem loseState_env : (loseState s).env = s.env := rfl
@[simp] theorem loseState_reads : (loseState s).reads = s.reads := rfl
@[simp] theorem loseState_busFaults : (loseState s).busFaults = s.busFaults := rfl
@[simp] theorem loseState_free : (loseState s).free = s.free + 20 := rfl

/-! ### `pollBusy`: every field but the host's program and the count is as before -/

@[simp] theorem pollBusy_state : (pollBusy s).state = s.state := rfl
@[simp] theorem pollBusy_incr : (pollBusy s).incr = s.incr := rfl
@[simp] theorem pollBusy_ctr : (pollBusy s).ctr = s.ctr := rfl
@[simp] theorem pollBusy_saved : (pollBusy s).saved = s.saved := rfl
@[simp] theorem pollBusy_savedValid : (pollBusy s).savedValid = s.savedValid := rfl
@[simp] theorem pollBusy_seeded : (pollBusy s).seeded = s.seeded := rfl
@[simp] theorem pollBusy_hacc : (pollBusy s).hacc = s.hacc := rfl
@[simp] theorem pollBusy_seed : (pollBusy s).seed = s.seed := rfl
@[simp] theorem pollBusy_minReg : (pollBusy s).minReg = s.minReg := rfl
@[simp] theorem pollBusy_maxReg : (pollBusy s).maxReg = s.maxReg := rfl
@[simp] theorem pollBusy_result : (pollBusy s).result = s.result := rfl
@[simp] theorem pollBusy_errCode : (pollBusy s).errCode = s.errCode := rfl
@[simp] theorem pollBusy_errInfo : (pollBusy s).errInfo = s.errInfo := rfl
@[simp] theorem pollBusy_busy : (pollBusy s).busy = s.busy := rfl
@[simp] theorem pollBusy_pend : (pollBusy s).pend = s.pend := rfl
@[simp] theorem pollBusy_pendT : (pollBusy s).pendT = s.pendT := rfl
@[simp] theorem pollBusy_lost : (pollBusy s).lost = s.lost := rfl
@[simp] theorem pollBusy_rst : (pollBusy s).rst = s.rst := rfl
@[simp] theorem pollBusy_timeS : (pollBusy s).timeS = s.timeS := rfl
@[simp] theorem pollBusy_env : (pollBusy s).env = s.env := rfl
@[simp] theorem pollBusy_reads : (pollBusy s).reads = s.reads := rfl
@[simp] theorem pollBusy_busFaults : (pollBusy s).busFaults = s.busFaults := rfl

/-! ### `serves`: when it holds, and what leaves it alone -/

theorem serves_iff : s.serves = true ↔ s.rst = false ∧ s.lost = false := by
  cases h : s.rst <;> cases h' : s.lost <;> simp [State.serves, h, h']

theorem not_serves_iff : s.serves = false ↔ s.rst = true ∨ s.lost = true := by
  cases h : s.rst <;> cases h' : s.lost <;> simp [State.serves, h, h']

theorem serves_congr {s t : State} (hr : s.rst = t.rst) (hl : s.lost = t.lost) : s.serves = t.serves := by
  simp [State.serves, hr, hl]

@[simp] theorem accept_serves (i : Instr) : (accept i s).serves = s.serves := rfl
@[simp] theorem seedWith_serves (v : Nat) : (seedWith v s).serves = s.serves := rfl
@[simp] theorem drawWith_serves (lo hi : Int) : (drawWith lo hi s).serves = s.serves := rfl
@[simp] theorem complete_serves (k : State → State) : (complete k s).serves = (k s).serves := rfl
@[simp] theorem raiseBusFault_serves (off : Offset) : (raiseBusFault off s).serves = s.serves := rfl
@[simp] theorem raiseError_serves (e : ErrorCode) (info : Word) : (raiseError e info s).serves = s.serves :=
  serves_congr (by simp) (by simp)
@[simp] theorem pollBusy_serves : (pollBusy s).serves = s.serves := rfl

@[simp] theorem takeTurn_serves : (takeTurn s).serves = s.serves := serves_congr (by simp) (by simp)

end Sys2Proof.Machine
end

