-- ==== Sys2Proof/Laws/Ops.lean ====
section
/-! SUPPORT. For each shared operation, everything it can do, said once. -/

namespace Sys2Proof.Machine

/-! ### The gates -/

theorem whenWritable_held (off : Offset) (s : State) (k : State → State) (h : s.serves = false) :
    whenWritable off s k = s := by simp [whenWritable, h]

theorem whenWritable_busy (off : Offset) (s : State) (k : State → State) (h : s.serves = true) (hb : s.busy = true) :
    whenWritable off s k = raiseError .busy (off.setWidth 32) s := by simp [whenWritable, h, hb]

theorem whenWritable_open (off : Offset) (s : State) (k : State → State) (h : s.serves = true) (hb : s.busy = false) :
    whenWritable off s k = k s := by simp [whenWritable, h, hb]

/-- What a gated write can do: nothing (the block does not serve), record code 2 (a command pending), or the write. -/
theorem whenWritable_cases (off : Offset) (s : State) (k : State → State) :
    (s.serves = false ∧ whenWritable off s k = s) ∨
    (s.serves = true ∧ s.busy = true ∧ whenWritable off s k = raiseError .busy (off.setWidth 32) s) ∨
    (s.serves = true ∧ s.busy = false ∧ whenWritable off s k = k s) := by
  cases h : s.serves <;> cases hb : s.busy <;> simp [whenWritable, h, hb]

theorem whenCommandable_open (s : State) (k : State → State) (h : s.serves = true) (hb : s.busy = false)
    (he : s.errCode = 0) : whenCommandable s k = k s := by
  simp [whenCommandable, whenWritable_open, h, hb, he]

/-- What a gated command word can do (R213, steps 2 and 3; R240). -/
theorem whenCommandable_cases (s : State) (k : State → State) :
    (s.serves = false ∧ whenCommandable s k = s) ∨
    (s.serves = true ∧ s.busy = true ∧ whenCommandable s k = raiseError .busy 0 s) ∨
    (s.serves = true ∧ s.busy = false ∧ s.errCode ≠ 0 ∧ whenCommandable s k = s) ∨
    (s.serves = true ∧ s.busy = false ∧ s.errCode = 0 ∧ whenCommandable s k = k s) := by
  obtain ⟨h, hk⟩ | ⟨h, hb, hk⟩ | ⟨h, hb, hk⟩ :=
    whenWritable_cases RegName.cmd.offset s fun s => if s.errCode ≠ 0 then s else k s
  · exact .inl ⟨h, hk⟩
  · exact .inr (.inl ⟨h, hb, hk⟩)
  · by_cases he : s.errCode = 0
    · exact .inr (.inr (.inr ⟨h, hb, he, by rw [whenCommandable, hk, if_neg (not_not_intro he)]⟩))
    · exact .inr (.inr (.inl ⟨h, hb, he, by rw [whenCommandable, hk, if_pos he]⟩))

/-! ### Commands -/

/-- Presenting a command: turned away by the gate, rejected by its check, or taken on to `k`. -/
theorem present_cases (i : Instr) (check : State → Option ErrorCode) (k : State → State) (s : State) :
    (s.serves = false ∧ present i check k s = s) ∨
    (s.serves = true ∧ s.busy = true ∧ present i check k s = raiseError .busy 0 s) ∨
    (s.serves = true ∧ s.busy = false ∧ s.errCode ≠ 0 ∧ present i check k s = s) ∨
    (s.serves = true ∧ s.busy = false ∧ s.errCode = 0 ∧
      ∃ e, check s = some e ∧ present i check k s = { s with errCode := e.bits, errInfo := encode i }) ∨
    (s.serves = true ∧ s.busy = false ∧ s.errCode = 0 ∧ check s = none ∧ present i check k s = k (accept i s)) := by
  obtain ⟨h, hk⟩ | ⟨h, hb, hk⟩ | ⟨h, hb, he, hk⟩ | ⟨h, hb, he, hk⟩ :=
    whenCommandable_cases s fun s =>
      match check s with
      | some e => raiseError e (encode i) s
      | none => k (accept i s)
  · exact .inl ⟨h, hk⟩
  · exact .inr (.inl ⟨h, hb, hk⟩)
  · exact .inr (.inr (.inl ⟨h, hb, he, hk⟩))
  · refine .inr (.inr (.inr ?_))
    have hp : present i check k s = _ := hk
    cases hc : check s with
    | some e => exact .inl ⟨h, hb, he, e, rfl, by simp [hp, hc, raiseError_first s e _ he]⟩
    | none => exact .inr ⟨h, hb, he, rfl, by simp [hp, hc]⟩

/-- Every command's meaning is the shared command run on its own check and its own effect. -/
theorem exec_eq_present (i : Instr) (s : State) :
    exec i s = .next (present i (checkOf i) (complete (effectOf i)) s) := by
  cases i <;> rfl

/-- A meaning always answers a next state. -/
theorem exec_next (i : Instr) (s : State) : ∃ t, exec i s = .next t := ⟨_, exec_eq_present i s⟩

/-- An accepted command: its effect on the state with the command pending, then `BUSY <- 0`. -/
theorem exec_accepted (i : Instr) (s : State) (h : s.serves = true) (hb : s.busy = false) (he : s.errCode = 0)
    (hc : checkOf i s = none) : exec i s = .next (complete (effectOf i) (accept i s)) := by
  simp [exec_eq_present, present, whenCommandable_open, h, hb, he, hc]

/-- A rejected command: the error record alone. -/
theorem exec_rejected (i : Instr) (s : State) (e : ErrorCode) (h : s.serves = true) (hb : s.busy = false)
    (he : s.errCode = 0) (hc : checkOf i s = some e) :
    exec i s = .next { s with errCode := e.bits, errInfo := encode i } := by
  simp [exec_eq_present, present, whenCommandable_open, h, hb, he, hc, raiseError_first]

/-- No error code's bits are zero. -/
theorem errorBits_ne_zero (e : ErrorCode) : e.bits ≠ 0 := by cases e <;> decide

/-- Only codes 1 to 6 are produced (R211). -/
theorem errorBits_le_six (e : ErrorCode) : e.bits.toNat ≤ 6 := by cases e <;> decide

/-! ### Effects: what no command's effect changes -/

@[simp] theorem effectOf_errCode (i : Instr) (s : State) : (effectOf i s).errCode = s.errCode := by cases i <;> rfl
@[simp] theorem effectOf_errInfo (i : Instr) (s : State) : (effectOf i s).errInfo = s.errInfo := by cases i <;> rfl
@[simp] theorem effectOf_busy (i : Instr) (s : State) : (effectOf i s).busy = s.busy := by cases i <;> rfl
@[simp] theorem effectOf_pend (i : Instr) (s : State) : (effectOf i s).pend = s.pend := by cases i <;> rfl
@[simp] theorem effectOf_pendT (i : Instr) (s : State) : (effectOf i s).pendT = s.pendT := by cases i <;> rfl
@[simp] theorem effectOf_lost (i : Instr) (s : State) : (effectOf i s).lost = s.lost := by cases i <;> rfl
@[simp] theorem effectOf_rst (i : Instr) (s : State) : (effectOf i s).rst = s.rst := by cases i <;> rfl
@[simp] theorem effectOf_serves (i : Instr) (s : State) : (effectOf i s).serves = s.serves := by cases i <;> rfl
@[simp] theorem effectOf_timeS (i : Instr) (s : State) : (effectOf i s).timeS = s.timeS := by cases i <;> rfl
@[simp] theorem effectOf_host (i : Instr) (s : State) : (effectOf i s).host = s.host := by cases i <;> rfl
@[simp] theorem effectOf_env (i : Instr) (s : State) : (effectOf i s).env = s.env := by cases i <;> rfl
@[simp] theorem effectOf_reads (i : Instr) (s : State) : (effectOf i s).reads = s.reads := by cases i <;> rfl
@[simp] theorem effectOf_busFaults (i : Instr) (s : State) : (effectOf i s).busFaults = s.busFaults := by cases i <;> rfl
@[simp] theorem effectOf_free (i : Instr) (s : State) : (effectOf i s).free = s.free := by cases i <;> rfl
@[simp] theorem effectOf_seed (i : Instr) (s : State) : (effectOf i s).seed = s.seed := by cases i <;> rfl
@[simp] theorem effectOf_minReg (i : Instr) (s : State) : (effectOf i s).minReg = s.minReg := by cases i <;> rfl
@[simp] theorem effectOf_maxReg (i : Instr) (s : State) : (effectOf i s).maxReg = s.maxReg := by cases i <;> rfl

/-! ### The operand registers -/

theorem loHalf_toNat (d : DWord) : (loHalf d).toNat = d.toNat % 2 ^ 32 := by
  simp [loHalf, BitVec.extractLsb'_toNat]

theorem hiHalf_toNat (d : DWord) : (hiHalf d).toNat = d.toNat / 2 ^ 32 := by
  have := d.isLt
  simp only [hiHalf, BitVec.extractLsb'_toNat, Nat.shiftRight_eq_div_pow]
  omega

/-- The two halves of a 64-bit register join to it (R64). -/
theorem hiHalf_append_loHalf (d : DWord) : hiHalf d ++ loHalf d = d := by
  apply BitVec.eq_of_toNat_eq
  have := d.isLt
  rw [BitVec.toNat_append, ← Nat.shiftLeft_add_eq_or_of_lt (loHalf d).isLt, hiHalf_toNat, loHalf_toNat,
    Nat.shiftLeft_eq]
  omega

theorem ofOffset_offset (r : RegName) : RegName.ofOffset r.offset = r := by cases r <;> rfl

/-- Distinct offsets have distinct bus addresses (R79). -/
theorem busAddress_injective (a b : Offset) (h : busAddress a = busAddress b) : a = b := by
  apply BitVec.eq_of_toNat_eq
  simpa [busAddress] using h

theorem legalAccess_iff (off : Offset) (width : Nat) :
    legalAccess off width = true ↔ off.toNat % 4 = 0 ∧ width = 32 := by simp [legalAccess]

/-! ### The bus -/

/-- A bus access that is not aligned or not 32 bits wide only records its fault (R63). -/
theorem busRead_illegal (off : Offset) (width : Nat) (s : State) (h : legalAccess off width = false) :
    busRead off width s = raiseBusFault off s := by simp [busRead, h]

theorem busWrite_illegal (engine : Bool) (off : Offset) (width : Nat) (v : Word) (s : State)
    (h : legalAccess off width = false) : busWrite engine off width v s = .next (raiseBusFault off s) := by
  simp [busWrite, h]

/-- A write to `CMD` of a legal word: the command, whole or accepted only. -/
theorem writeCommand_ok (engine : Bool) (w : Word) (i : Instr) (s : State) (h : decode w = .ok i) :
    writeCommand engine w s = if engine then exec i s else .next (acceptOnly i s) := by simp [writeCommand, h]

theorem writeCommand_error (engine : Bool) (w : Word) (e : DecodeReject) (s : State) (h : decode w = .error e) :
    writeCommand engine w s = .next (presentIllegal w s) := by simp [writeCommand, h]

/-! ### Steps -/

theorem engineCompletes_iff (s : State) :
    engineCompletes s = true ↔ s.busy = true ∧ engineActs s = true ∧ s.lost = false := by
  cases hb : s.busy <;> cases he : engineActs s <;> cases hl : s.lost <;> simp [engineCompletes, hb, he, hl]

/-- A step is the engine's completion or the host's move. -/
theorem step_cases (s : State) :
    (engineCompletes s = true ∧ step s = completePending (takeTurn s)) ∨
    (engineCompletes s = false ∧ step s = hostMoves (engineActs s) (takeTurn s)) := by
  cases h : engineCompletes s <;> simp [step, h]

/-- A `WAIT` whose poll sees no pending command is done. -/
theorem pollBusy_done (s : State) (h : s.rst = true ∨ s.lost = false ∧ s.busy = false) : pollBusy s = s := by
  have hs : seenBusy s = false := by
    rcases h with h | ⟨hl, hb⟩
    · simp [seenBusy, h]
    · simp [seenBusy, hl, hb]
  have hf : (!s.rst && s.lost) = false := by
    rcases h with h | ⟨hl, -⟩
    · simp [h]
    · simp [hl]
  simp only [pollBusy, hs, hf, Bool.false_eq_true, if_false]

/-- A `WAIT` whose poll sees a pending command stays the next act. -/
theorem pollBusy_waits (s : State) (h : s.serves = true) (hb : s.busy = true) :
    pollBusy s = { s with host := .wait :: s.host } := by
  obtain ⟨hr, hl⟩ := (serves_iff s).1 h
  simp [pollBusy, seenBusy, hr, hl, hb]

theorem completePending_ok (s : State) (i : Instr) (h : decode s.pend = .ok i) :
    completePending s = .next (complete (effectOf i) s) := by simp [completePending, h]

theorem hostMoves_nil (engine : Bool) (s : State) (h : s.host = []) : hostMoves engine s = .next s := by
  simp [hostMoves, h]

theorem hostMoves_cons (engine : Bool) (s : State) (a : HostAct) (rest : List HostAct) (h : s.host = a :: rest) :
    hostMoves engine s = hostDoes engine a { s with host := rest } := by simp [hostMoves, h]

end Sys2Proof.Machine
end

