-- ==== Sys2Proof/Laws/PerInstr.lean ====
section
/-! SUPPORT. Facts about every command as syntax, one lemma per constructor. -/

namespace Sys2Proof.Laws.EncodedFields

/-- The fields of a command's word are those of the opcode map, and the word is legal by R97's four conditions. -/
def Statement (i : Instr) : Prop :=
  opcField (encode i) = i.opc ∧ immField (encode i) = i.imm ∧ rsvdField (encode i) = 0 ∧
    legalWord (encode i) = true ∧ i.wellFormed = true

theorem nop : Statement .nop := by unfold Statement; decide
theorem seedInt : Statement .seedInt := by unfold Statement; decide
theorem seedTime : Statement .seedTime := by unfold Statement; decide
theorem hashStart : Statement .hashStart := by unfold Statement; decide
theorem hashByte (b : Byte) : Statement (.hashByte b) := by unfold Statement; revert b; decide +kernel
theorem seedHash : Statement .seedHash := by unfold Statement; decide
theorem nextInt : Statement .nextInt := by unfold Statement; decide
theorem nextByte (readable : Bool) : Statement (.nextByte readable) := by unfold Statement; revert readable; decide
theorem save : Statement .save := by unfold Statement; decide
theorem restore : Statement .restore := by unfold Statement; decide

end Sys2Proof.Laws.EncodedFields
end

