-- ==== Sys2Proof/Laws/RangeMap.lean ====
section
/-! SUPPORT. The rounding `rne53`: what `roundQuotient` can be, and where rounding is exact. -/

namespace Sys2Proof.Machine

/-- The rounded quotient is the floor or the next integer, whichever is nearer. -/
theorem roundQuotient_cases (a e : Nat) :
    (roundQuotient a e = a / 2 ^ e ∧ a % 2 ^ e ≤ 2 ^ (e - 1)) ∨
    (roundQuotient a e = a / 2 ^ e + 1 ∧ 2 ^ (e - 1) ≤ a % 2 ^ e) := by
  unfold roundQuotient
  simp only
  split
  · rename_i h
    exact .inr ⟨rfl, by omega⟩
  · rename_i h
    exact .inl ⟨rfl, by omega⟩

/-- A multiple of the rounding unit is not rounded. -/
theorem roundQuotient_of_dvd (q e : Nat) : roundQuotient (q * 2 ^ e) e = q := by
  have h : 0 < 2 ^ e := Nat.two_pow_pos e
  have h' : 0 < 2 ^ (e - 1) := Nat.two_pow_pos _
  unfold roundQuotient
  simp only [Nat.mul_mod_left, Nat.mul_div_cancel _ h]
  rw [if_neg (by omega)]

theorem rne53_small (n : Int) (h : n.natAbs < 2 ^ 53) : rne53 n = n := if_pos h

/-- A number whose low bits below the rounding unit are clear is exact. -/
theorem rne53_exact (n : Int) (h : 2 ^ (bitLength n.natAbs - 53) ∣ n.natAbs) : rne53 n = n := by
  by_cases hs : n.natAbs < 2 ^ 53
  · exact rne53_small n hs
  · obtain ⟨q, hq⟩ := h
    unfold rne53
    simp only [if_neg hs]
    rw [mul_comm] at hq
    generalize he : bitLength n.natAbs - 53 = e at *
    rw [hq, roundQuotient_of_dvd, ← hq]
    exact Int.sign_mul_natAbs n

end Sys2Proof.Machine
end

