-- ==== Sys2Proof/Machine/Assembler.lean ====
section
/-! DEFINITION. The assembler's text (30_encoding.md R101): one step per line, `;` starts a comment, mnemonics in upper
case, numbers decimal or `0x` hexadecimal, a character in single quotes for its ASCII code, a quoted string for its bytes
(R102). A line that is no step is refused (`none`). -/

namespace Sys2Proof.Machine

/-- A token of a line: a bare word, or the bytes of a quoted character or string. -/
inductive Token where
  | word (cs : List Char)
  | char (b : Byte)
  | text (bs : List Byte)
  deriving DecidableEq, Repr

/-- Where the lexer stands in a line. -/
inductive LexMode where
  | bare
  | charOpen
  | charRead (b : Byte)
  | string
  | comment
  deriving DecidableEq, Repr

/-- The byte of an ASCII character. -/
def asciiByte (c : Char) : Option Byte := if c.toNat < 128 then some (BitVec.ofNat 8 c.toNat) else none

/-- The bare word read so far, if there is one. -/
def flushWord (acc : List Char) (out : List Token) : List Token :=
  match acc with
  | [] => out
  | c :: cs => .word (c :: cs).reverse :: out

/-- Reads the tokens of a line; `acc` and `bytes` hold the token being read and `out` the tokens read, each reversed.
DESIGN CHOICE (log entry 21): a `;` inside a quoted character or string is that character and starts no comment. -/
def lexLine : List Char → LexMode → List Char → List Byte → List Token → Option (List Token)
  | [], mode, acc, _, out =>
    match mode with
    | .bare | .comment => some (flushWord acc out).reverse
    | .charOpen | .charRead _ | .string => none
  | c :: rest, mode, acc, bytes, out =>
    match mode with
    | .comment => lexLine rest .comment acc bytes out
    | .charOpen =>
      match asciiByte c with
      | some b => lexLine rest (.charRead b) acc bytes out
      | none => none
    | .charRead b => if c.toNat = 0x27 then lexLine rest .bare acc bytes (.char b :: out) else none
    | .string =>
      if c.toNat = 0x22 then lexLine rest .bare acc [] (.text bytes.reverse :: out)
      else
        match asciiByte c with
        | some b => lexLine rest .string acc (b :: bytes) out
        | none => none
    | .bare =>
      if c = ';' then lexLine rest .comment [] bytes (flushWord acc out)
      else if c = ' ' ∨ c = ',' ∨ c.toNat = 0x09 then lexLine rest .bare [] bytes (flushWord acc out)
      else if c.toNat = 0x27 then lexLine rest .charOpen [] bytes (flushWord acc out)
      else if c.toNat = 0x22 then lexLine rest .string [] [] (flushWord acc out)
      else lexLine rest .bare (c :: acc) bytes out

/-- The value of a digit of a base up to 16. -/
def digitValue (base : Nat) (c : Char) : Option Nat :=
  let n := c.toNat
  let v :=
    if 0x30 ≤ n ∧ n ≤ 0x39 then n - 0x30
    else if 0x41 ≤ n ∧ n ≤ 0x46 then n - 0x41 + 10
    else if 0x61 ≤ n ∧ n ≤ 0x66 then n - 0x61 + 10
    else 16
  if v < base then some v else none

/-- The number whose digits are read after the value `acc`. -/
def readDigits (base : Nat) : List Char → Nat → Option Nat
  | [], acc => some acc
  | c :: cs, acc =>
    match digitValue base c with
    | some d => readDigits base cs (acc * base + d)
    | none => none

/-- A natural number: decimal, or hexadecimal after `0x`. -/
def readNat (cs : List Char) : Option Nat :=
  match cs with
  | [] => none
  | ['0', 'x'] => none
  | '0' :: 'x' :: ds => readDigits 16 ds 0
  | d :: ds => readDigits 10 (d :: ds) 0

/-- An integer: a number, or a negative decimal value. -/
def readInt (cs : List Char) : Option Int :=
  match cs with
  | '-' :: d :: ds => (readDigits 10 (d :: ds) 0).map fun n => -(n : Int)
  | _ => (readNat cs).map fun n => (n : Int)

/-- The commands that take no operand, by mnemonic (R94). -/
def plainCommand (cs : List Char) : Option Instr :=
  if cs = "NOP".toList then some .nop
  else if cs = "SEED_INT".toList then some .seedInt
  else if cs = "SEED_TIME".toList then some .seedTime
  else if cs = "HASH_START".toList then some .hashStart
  else if cs = "SEED_HASH".toList then some .seedHash
  else if cs = "NEXT_INT".toList then some .nextInt
  else if cs = "SAVE".toList then some .save
  else if cs = "RESTORE".toList then some .restore
  else none

/-- A register by its name (20_memory.md R61). -/
def readReg (cs : List Char) : Option RegName :=
  if cs = "CMD".toList then some .cmd
  else if cs = "STATUS".toList then some .status
  else if cs = "SEED_LO".toList then some .seedLo
  else if cs = "SEED_HI".toList then some .seedHi
  else if cs = "MIN".toList then some .min
  else if cs = "MAX".toList then some .max
  else if cs = "RESULT_LO".toList then some .resultLo
  else if cs = "RESULT_HI".toList then some .resultHi
  else if cs = "STATE".toList then some .state
  else if cs = "SAVED".toList then some .saved
  else if cs = "CTR_LO".toList then some .ctrLo
  else if cs = "CTR_HI".toList then some .ctrHi
  else if cs = "INCR".toList then some .incr
  else if cs = "HASH".toList then some .hash
  else if cs = "ERR_INFO".toList then some .errInfo
  else none

/-- `HASH_BYTE`'s operand: a number in [0, 255] (R101). -/
def readByte (cs : List Char) : Option Byte :=
  match readNat cs with
  | some n => if n < 256 then some (BitVec.ofNat 8 n) else none
  | none => none

/-- `NEXT_BYTE`'s operand: `0` or `1` (R101). -/
def readBit (cs : List Char) : Option Bool :=
  match readNat cs with
  | some 0 => some false
  | some 1 => some true
  | _ => none

/-- `DRAW`'s operands: integers in `[-2^31, 2^31)` (R102). -/
def readBound (cs : List Char) : Option Int :=
  match readInt cs with
  | some v => if -(2 ^ 31) ≤ v ∧ v < 2 ^ 31 then some v else none
  | none => none

/-- A line of one word. -/
def parseWord (cs : List Char) : Option AsmLine :=
  if cs = "WAIT".toList then some .wait
  else if cs = "RESET".toList then some .reset
  else if cs = "SEEDT".toList then some .seedt
  else (plainCommand cs).map .command

/-- A line of a word and one word operand. -/
def parseUnary (cs x : List Char) : Option AsmLine :=
  if cs = "HASH_BYTE".toList then (readByte x).map fun b => .command (.hashByte b)
  else if cs = "NEXT_BYTE".toList then (readBit x).map fun r => .command (.nextByte r)
  else if cs = "RD".toList then (readReg x).map .rd
  else if cs = "SEEDI".toList then (readInt x).map .seedi
  else if cs = "CONSTRUCT".toList ∧ x = "SEEDT".toList then some (.construct .clock)
  else none

/-- A line of a word and two word operands. -/
def parseBinary (cs x y : List Char) : Option AsmLine :=
  if cs = "WR".toList then
    match readReg x, readInt y with
    | some r, some v => some (.wr r v)
    | _, _ => none
  else if cs = "DRAW".toList then
    match readBound x, readBound y with
    | some lo, some hi => some (.draw lo hi)
    | _, _ => none
  else if cs = "NEXT_BYTES".toList then
    match readNat x, readBit y with
    | some n, some r => some (.nextBytes n r)
    | _, _ => none
  else if cs = "CONSTRUCT".toList ∧ x = "SEEDI".toList then (readInt y).map fun v => .construct (.integer v)
  else none

/-- The step a line's tokens stand for. -/
def parseTokens (ts : List Token) : Option AsmLine :=
  match ts with
  | [.word cs] => parseWord cs
  | [.word cs, .word x] => parseUnary cs x
  | [.word cs, .word x, .word y] => parseBinary cs x y
  | [.word cs, .char b] => if cs = "HASH_BYTE".toList then some (.command (.hashByte b)) else none
  | [.word cs, .text bs] =>
    if cs = "HASHS".toList then some (.hashs bs) else if cs = "SEEDS".toList then some (.seeds bs) else none
  | [.word cs, .word x, .text bs] =>
    if cs = "CONSTRUCT".toList ∧ x = "SEEDS".toList then some (.construct (.text bs)) else none
  | _ => none

/-- One line of assembler text: its host acts, or `none` where it is no step. A blank or comment line has no acts. -/
def assembleLine (line : List Char) : Option (List HostAct) :=
  match lexLine line .bare [] [] [] with
  | some [] => some []
  | some (t :: ts) => (parseTokens (t :: ts)).map AsmLine.expand
  | none => none

/-- A program's text, line by line. -/
def assembleText : List (List Char) → Option (List HostAct)
  | [] => some []
  | line :: lines =>
    match assembleLine line, assembleText lines with
    | some acts, some rest => some (acts ++ rest)
    | _, _ => none

end Sys2Proof.Machine
end

