-- ==== Sys2Proof/Tests/Slice0.lean ====
section
/-! SUPPORT. The model's own tests: checks that refuse, words written out from 30_encoding.md R94, single steps with values
from 95_test_vectors.md, and for every statement with hypotheses a named theorem `witness_…` that meets them. -/

namespace Sys2Proof.Tests

open Sys2Proof Sys2Proof.Machine

/-- The outcome is a next state with the property. -/
def reaches (o : Host.Outcome State Fault Refusal) (p : State → Bool) : Bool :=
  match o with
  | .next t => p t
  | .fault _ => false
  | .refused _ => false

/-- After `SEEDI 123` from reset (V-SD1). -/
def seeded123 : State := { State.reset with state := 0x7B, seed := 0x7B, seeded := true }

/-- A seeded block with a `NEXT_INT` pending. -/
def busy123 : State := { seeded123 with busy := true, pend := 0x00000006 }

/-- A block with an error recorded (V-E3, step 1). -/
def stuck : State := { State.reset with errCode := 1, errInfo := 0x0000000A }

/-- A block held in reset. -/
def held : State := { State.reset with rst := true }

/-- A block that has lost its state with its power. -/
def unpowered : State := loseState busy123

/-! ### WellFormed: one ill-formed word or access for each check -/

theorem test_rsvd_refused : rsvdClear 0x00010000 = false ∧ legalWord 0x00010000 = false := by decide
theorem test_opcode_refused : opcDefined 0x0000000A = false ∧ legalWord 0x0000000A = false := by decide
theorem test_imm_refused : immUnused 0x00000106 = false ∧ legalWord 0x00000106 = false := by decide
theorem test_readable_bits_refused : readableBitOnly 0x00000207 = false ∧ legalWord 0x00000207 = false := by decide
theorem test_legal_word_taken : legalWord 0x0000FF04 = true ∧ legalWord 0x00000107 = true := by decide
theorem test_access_refused : legalAccess 0x02 32 = false ∧ legalAccess 0x00 16 = false ∧ legalAccess 0x3C 32 = true := by
  decide

/-! ### Decode: every constructor, from the opcode map R94 -/

theorem test_decode_nop : (decode 0x00000000).toOption = some .nop := by decide
theorem test_decode_seedInt : (decode 0x00000001).toOption = some .seedInt := by decide
theorem test_decode_seedTime : (decode 0x00000002).toOption = some .seedTime := by decide
theorem test_decode_hashStart : (decode 0x00000003).toOption = some .hashStart := by decide
theorem test_decode_hashByte : (decode 0x00006104).toOption = some (.hashByte 0x61) := by decide
theorem test_decode_seedHash : (decode 0x00000005).toOption = some .seedHash := by decide
theorem test_decode_nextInt : (decode 0x00000006).toOption = some .nextInt := by decide
theorem test_decode_nextByte : (decode 0x00000007).toOption = some (.nextByte false) := by decide
theorem test_decode_nextByte_readable : (decode 0x00000107).toOption = some (.nextByte true) := by decide
theorem test_decode_save : (decode 0x00000008).toOption = some .save := by decide
theorem test_decode_restore : (decode 0x00000009).toOption = some .restore := by decide

/-- V-E1, the illegal words. -/
theorem test_decode_illegal :
    [0x0000000A, 0x00010000, 0x00000100, 0x00000106, 0x00000207, 0x0000FF07, 0xFFFFFFFF].all
      fun w : Word => (decode w).toOption == none := by decide

/-! ### Hash and mapping: V-T1, V-H2, V-H4, V-M -/

theorem test_table :
    crcTable 0x00 = 0x00000000 ∧ crcTable 0x01 = 0x77073096 ∧ crcTable 0x10 = 0x1DB71064 ∧ crcTable 0x80 = 0xEDB88320 ∧
      crcTable 0xFF = 0x2D02EF8D := by decide +kernel
theorem test_hash32_hello : hash32 [0x68, 0x65, 0x6C, 0x6C, 0x6F] = 0x3610A686 := by decide +kernel
theorem test_dec : dec 0 = [0x30] ∧ dec 123 = [0x31, 0x32, 0x33] ∧ (dec 18446744073709551614).length = 20 := by
  decide +kernel
theorem test_map_above_max : mapRange 0xFFFFFFFF (2 ^ 21) (2 ^ 21) = 2 ^ 21 + 1 := by decide +kernel
theorem test_map_first_rounding : mapRange 0xFFFFFFFF (-(2 ^ 31)) 0 = 0 := by decide +kernel

/-! ### One step of each command -/

theorem test_nop_from_reset : reaches (exec .nop State.reset) fun t => t.visible == State.reset.visible := by decide
theorem test_nop_while_busy : reaches (exec .nop busy123) fun t => t.errCode == 2 && t.errInfo == 0 && t.busy := by decide

theorem test_seedInt_negative :
    reaches (exec .seedInt { State.reset with seed := 0xFFFFFFFF00000001 }) fun t =>
      t.state == 0xFFFFFFFF && statusWord t == 0x00000002 := by decide +kernel
theorem test_seedInt_rejected :
    reaches (exec .seedInt { State.reset with seed := 0x8000000000000000 }) fun t =>
      t.state == 0 && statusWord t == 0x00000500 && t.errInfo == 0x00000001 := by decide +kernel

theorem test_seedTime :
    reaches (exec .seedTime { State.reset with timeS := 1700000000 }) fun t => t.state == 0x6553F100 && t.seeded := by
  decide +kernel
theorem test_seedTime_rejected :
    reaches (exec .seedTime { State.reset with timeS := 0x100000000 }) fun t =>
      statusWord t == 0x00000500 && t.errInfo == 0x00000002 := by decide +kernel

theorem test_hashStart :
    reaches (exec .hashStart { State.reset with hacc := 0xCADBBE3D }) fun t => t.hacc == 0xFFFFFFFF && !t.seeded := by
  decide

theorem test_hashByte : reaches (exec (.hashByte 0x61) State.reset) fun t => t.hacc == 0x174841BC := by decide +kernel
theorem test_hashByte_zero : reaches (exec (.hashByte 0x00) State.reset) fun t => t.hacc == 0x2DFD1072 := by
  decide +kernel

theorem test_seedHash :
    reaches (exec .seedHash { State.reset with hacc := 0xCADBBE3D, ctr := 5 }) fun t =>
      t.state == 0x352441C2 && t.ctr == 0 && t.hacc == 0xCADBBE3D := by decide +kernel

/-- V-G1, row 1. -/
theorem test_nextInt :
    reaches (exec .nextInt { seeded123 with maxReg := 1000 }) fun t =>
      t.state == 0xE6FDBC7C && t.ctr == 1 && t.incr == 0xDAC9B43D && t.result == 903 := by decide +kernel
/-- V-G6, row 2. -/
theorem test_nextInt_signed :
    reaches (exec .nextInt { seeded123 with state := 0xE6FDBC7C, ctr := 1, minReg := 0xFFFFFFF6, maxReg := 10 }) fun t =>
      t.state == 0x6F8C13D5 && t.result == 0xFFFFFFFFFFFFFFFF := by decide +kernel

/-- V-G7, row 1. -/
theorem test_nextByte_readable :
    reaches (exec (.nextByte true) seeded123) fun t => t.state == 0xE6FDBC7C && t.result == 117 := by decide +kernel
/-- V-E1, corner case: `MIN` and `MAX` are not read. -/
theorem test_nextByte_ignores_range :
    reaches (exec (.nextByte false) { seeded123 with minReg := 5, maxReg := 4 }) fun t =>
      t.result == 230 && t.errCode == 0 := by decide +kernel

theorem test_save :
    reaches (exec .save { seeded123 with state := 0xE6FDBC7C, saved := 1 }) fun t =>
      t.saved == 0xE6FDBC7C && statusWord t == 0x00000006 := by decide
theorem test_save_unseeded :
    reaches (exec .save State.reset) fun t => statusWord t == 0x00000300 && t.errInfo == 0x00000008 := by decide

/-- V-S1, row `RESTORE`. -/
theorem test_restore :
    reaches
      (exec .restore { seeded123 with state := 0xCB98324C, ctr := 3, saved := 0xE6FDBC7C, savedValid := true })
      fun t => t.state == 0xE6FDBC7C && t.ctr == 3 := by decide
/-- V-S2. -/
theorem test_restore_without_snapshot :
    reaches (exec .restore seeded123) fun t => t.state == 0x0000007B && t.errCode == 0 := by decide

/-! ### Bus, steps, programs -/

/-- V-E1, the first code 2 row: the write is dropped and the draw completes. -/
theorem test_write_while_busy :
    reaches (busWrite false 0x10 32 7 busy123) fun t =>
      t.errInfo == 0x00000010 && statusWord t == 0x00000203 &&
        reaches (completePending t) fun u => u.result == 230 && u.minReg == 0 && statusWord u == 0x00000202 := by
  decide +kernel

/-- V-E2, last row. -/
theorem test_bus_fault :
    reaches (busWrite true 0x02 32 7 State.reset) fun t => t.busFaults == [0x02] && t.block == State.reset.block := by
  decide

/-- P4, its seven lines as text, on the block as reset leaves it. -/
theorem test_program_p4 :
    (assembleText
        (["RESET", "NEXT_INT", "WAIT", "WR SEED_LO, 123", "SEED_INT", "WAIT", "RD STATUS"].map String.toList)).map
        (fun acts => reaches (steps 7 { State.reset with host := acts }) fun t =>
            t.reads == [0x00000300] && t.seed == 123 && !t.seeded && t.errInfo == 0x00000006) = some true := by
  decide +kernel

/-- R227, R243: after a loss of power a command has no effect; after the reset P4 runs as from reset. -/
theorem test_power_loss :
    reaches
      (steps 9
        { busy123 with
          host := .powerCycle :: .write 0x00 32 0x00000001 :: .reset :: .write 0x00 32 0x00000006 :: .wait ::
            .write 0x08 32 123 :: .write 0x00 32 0x00000001 :: .wait :: [.read 0x04 32]
          env := [⟨false, 0⟩] })
      fun t => t.reads == [0x00000300] && t.seed == 123 && !t.seeded && t.errInfo == 0x00000006 := by decide +kernel

/-- A word placed by `withFetchWord` runs at the very next step. -/
theorem test_fetch_word :
    reaches (step (State.reset.withFetchWord 32 0x00006104)) fun t => t.hacc == 0x174841BC := by decide +kernel

/-! ### Witnesses: encodings and pure functions -/

theorem witness_illegal_words :
    State.reset.Ready ∧ (0x00010000 : Word).toNat / 2 ^ 16 ≠ 0 ∧ (0x0000000A : Word).toNat % 2 ^ 8 ≥ 0x0A ∧
      ((0x00000106 : Word).toNat % 2 ^ 8 ≠ 0x04 ∧ (0x00000106 : Word).toNat % 2 ^ 8 ≠ 0x07 ∧
        (0x00000106 : Word).toNat / 2 ^ 8 % 2 ^ 8 ≠ 0) ∧
      ((0x00000207 : Word).toNat % 2 ^ 8 = 0x07 ∧ (0x00000207 : Word).toNat / 2 ^ 9 % 2 ^ 7 ≠ 0) := by decide

theorem witness_dec : (2 ^ 64 - 1 : Nat) ≠ 0 ∧ (2 ^ 64 - 1 : Nat) < 2 ^ 64 ∧ (2 ^ 32 - 1 : Nat) < 2 ^ 32 := by decide

theorem witness_rne53 :
    (2 ^ 53 - 1 : Int).natAbs < 2 ^ 53 ∧ 2 ^ 53 ≤ (2 ^ 53 : Int).natAbs ∧ 2 ^ 53 ≤ (-(2 ^ 54) - 2 : Int).natAbs := by decide

theorem witness_map_range :
    (0xFFFFFFFF : Nat) < 2 ^ 32 ∧ (-(2 ^ 31) : Int) ≤ -(2 ^ 31) ∧ (-(2 ^ 31) : Int) ≤ 2 ^ 31 - 1 ∧
      (2 ^ 31 - 1 : Int) < 2 ^ 31 := by decide

theorem witness_map_band :
    (0xFFFFFFFF : Nat) < 2 ^ 32 ∧ (-(2 ^ 20) : Int) ≤ -(2 ^ 20) ∧ (-(2 ^ 20) : Int) ≤ 2 ^ 20 - 1 ∧
      (2 ^ 20 - 1 : Int) ≤ 2 ^ 20 - 1 := by decide

/-! ### Witnesses: the commands -/

/-- Accepted by the generic checks, and each of the three generic rejections. -/
theorem witness_generic_checks :
    State.reset.Ready ∧ held.rst = true ∧ (busy123.serves = true ∧ busy123.busy = true ∧ busy123.errCode = 0) ∧
      (stuck.serves = true ∧ stuck.busy = false ∧ stuck.errCode ≠ 0) := by decide

/-- `SEED_INT`: 2^32 - 1, its negation, 2^32 and -2^63. -/
theorem witness_seedInt :
    let at_ (d : DWord) : State := { State.reset with seed := d }
    ((at_ 0x00000000FFFFFFFF).Ready ∧ (at_ 0x00000000FFFFFFFF).seed.toInt.natAbs < 2 ^ 32) ∧
      (at_ 0xFFFFFFFF00000001).seed.toInt.natAbs < 2 ^ 32 ∧
      ((at_ 0x0000000100000000).Ready ∧ 2 ^ 32 ≤ (at_ 0x0000000100000000).seed.toInt.natAbs) ∧
      2 ^ 32 ≤ (at_ 0x8000000000000000).seed.toInt.natAbs := by decide +kernel

theorem witness_seedTime :
    let at_ (d : DWord) : State := { State.reset with timeS := d }
    ((at_ 0xFFFFFFFF).Ready ∧ (at_ 0xFFFFFFFF).timeS.toNat < 2 ^ 32) ∧
      ((at_ 0x100000000).Ready ∧ 2 ^ 32 ≤ (at_ 0x100000000).timeS.toNat) := by decide +kernel

/-- `NEXT_INT`: unseeded; `MAX` one below `MIN`; the counter at its end; the last draw, with `MIN = MAX`. -/
theorem witness_nextInt :
    (State.reset.Ready ∧ State.reset.seeded = false) ∧
      (let s : State := { seeded123 with minReg := 5, maxReg := 4 };
        s.Ready ∧ s.seeded = true ∧ s.maxReg.toInt < s.minReg.toInt) ∧
      (let s : State := { seeded123 with ctr := 0xFFFFFFFFFFFFFFFF };
        s.Ready ∧ s.seeded = true ∧ s.minReg.toInt ≤ s.maxReg.toInt ∧ s.ctr.toNat = 2 ^ 64 - 1) ∧
      (let s : State := { seeded123 with ctr := 0xFFFFFFFFFFFFFFFE, minReg := 0x80000000, maxReg := 0x80000000 };
        s.Ready ∧ s.seeded = true ∧ s.minReg.toInt ≤ s.maxReg.toInt ∧ s.ctr.toNat < 2 ^ 64 - 1) := by decide +kernel

theorem witness_nextByte :
    (State.reset.Ready ∧ State.reset.seeded = false) ∧
      (let s : State := { seeded123 with ctr := 0xFFFFFFFFFFFFFFFF };
        s.Ready ∧ s.seeded = true ∧ s.ctr.toNat = 2 ^ 64 - 1) ∧
      (let s : State := { seeded123 with ctr := 0xFFFFFFFFFFFFFFFE };
        s.Ready ∧ s.seeded = true ∧ s.ctr.toNat < 2 ^ 64 - 1) := by decide +kernel

theorem witness_save_restore :
    (State.reset.Ready ∧ State.reset.seeded = false) ∧
      (seeded123.Ready ∧ seeded123.seeded = true ∧ seeded123.savedValid = false) ∧
      (let s : State := { seeded123 with saved := 0x7B, savedValid := true };
        s.Ready ∧ s.seeded = true ∧ s.savedValid = true) := by decide

/-- Commands that change each register of `CommandsWriteOnlyTheirRegisters`. -/
theorem witness_commands_write :
    (reaches (exec .nextInt seeded123) fun t =>
        t.state != seeded123.state && t.incr != seeded123.incr && t.result != seeded123.result &&
          t.ctr != seeded123.ctr) ∧
      (reaches (exec .seedHash { State.reset with ctr := 1 }) fun t => t.ctr != 1 && t.seeded) ∧
      (reaches (exec .save seeded123) fun t => t.saved != seeded123.saved && t.savedValid) ∧
      (reaches (exec (.hashByte 0) State.reset) fun t => t.hacc != State.reset.hacc) := by decide +kernel

/-- One host write for each outcome of `ErrorPrecedence`. -/
theorem witness_error_precedence :
    let low : State := { State.reset with minReg := 5, maxReg := 4 }
    let last : State := { seeded123 with ctr := 0xFFFFFFFFFFFFFFFF }
    (State.reset.serves = true ∧ (0x02 : Offset).toNat % 4 ≠ 0 ∧ (16 : Nat) ≠ 32) ∧
      (busy123.serves = true ∧ busy123.busy = true ∧ busy123.errCode = 0 ∧
        (0x14 : Offset) ∈ [(0x00 : Offset), 0x08, 0x0C, 0x10, 0x14]) ∧
      (stuck.serves = true ∧ stuck.busy = false ∧ stuck.errCode ≠ 0) ∧
      (decode 0x0000000A).toOption = none ∧ ((decode 0x06).toOption = some .nextInt ∧ low.seeded = false) ∧
      low.maxReg.toInt < low.minReg.toInt ∧
      ((decode 0x01).toOption = some .seedInt ∧
        2 ^ 32 ≤ ({ State.reset with seed := 0x100000000 } : State).seed.toInt.natAbs) ∧
      ((decode 0x02).toOption = some .seedTime ∧
        2 ^ 32 ≤ ({ State.reset with timeS := 0x100000000 } : State).timeS.toNat) ∧
      (last.serves = true ∧ last.busy = false ∧ last.errCode = 0 ∧ last.seeded = true ∧
        last.minReg.toInt ≤ last.maxReg.toInt ∧ last.ctr.toNat = 2 ^ 64 - 1) ∧
      (seeded123.serves = true ∧ seeded123.busy = false ∧ seeded123.errCode = 0) ∧
      (0x04 : Offset) ∉ [(0x00 : Offset), 0x08, 0x0C, 0x10, 0x14] := by decide +kernel

/-- Two blocks that agree on what a draw reads and on nothing else. -/
def other123 : State :=
  { seeded123 with incr := 9, saved := 7, savedValid := true, hacc := 3, seed := 5, result := 4, timeS := 8 }

theorem witness_draws_depend :
    (seeded123.Ready ∧ other123.Ready ∧ checkOf .nextInt seeded123 = none ∧ checkOf .nextInt other123 = none ∧
      seeded123.state = other123.state ∧ seeded123.ctr = other123.ctr ∧ seeded123.minReg = other123.minReg ∧
      seeded123.maxReg = other123.maxReg) ∧
      (∃ t, exec .nextInt seeded123 = .next t) ∧ ∃ t', exec .nextInt other123 = .next t' :=
  ⟨by decide +kernel, exec_next _ _, exec_next _ _⟩

theorem witness_state_sequence :
    (isDraw .nextInt = true ∧ isDraw (.nextByte true) = true ∧ checkOf .nextInt seeded123 = none ∧
      checkOf (.nextByte true) { other123 with minReg := 5, maxReg := 4 } = none) ∧
      (∃ t, exec .nextInt seeded123 = .next t) ∧
      ∃ t', exec (.nextByte true) { other123 with minReg := 5, maxReg := 4 } = .next t' :=
  ⟨by decide +kernel, exec_next _ _, exec_next _ _⟩

theorem witness_hash_commands :
    isHash (.hashByte 0x61) = true ∧ isHash .hashStart = true ∧ State.reset.Ready ∧ seeded123.Ready ∧
      State.reset.hacc = seeded123.hacc := by decide

/-- A block about to be constructed with the seed 123, and one about to be reseeded that has drawn, hashed "abc" and sees
another time. -/
def fresh123 : State := { State.reset with seed := 0x7B }
def used123 : State := { seeded123 with ctr := 9, incr := 3, result := 4, hacc := 0xCADBBE3D, timeS := 7, maxReg := 9 }

/-- An integer reseed beside a construction whose `HACC`, `TIME_S` and `MAX` differ. -/
theorem witness_reseed :
    (isSeeding .seedInt = true ∧ fresh123.Ready ∧ used123.Ready ∧ checkOf .seedInt fresh123 = none ∧
      checkOf .seedInt used123 = none ∧ fresh123.seed = used123.seed ∧ fresh123.hacc ≠ used123.hacc ∧
      fresh123.timeS ≠ used123.timeS ∧ fresh123.maxReg ≠ used123.maxReg ∧
      ([.nextInt, .nextByte true] : List Instr).all isDraw = true) ∧
      (reaches (exec .seedInt fresh123) fun u => u.state == 0x7B) ∧
      reaches (exec .seedInt used123) fun u => u.state == 0x7B := ⟨by decide +kernel, by decide +kernel, by decide +kernel⟩

/-- A text reseed with "abc" beside a construction with the integer that text hashes to (R150): one derived seed. -/
theorem witness_reseed_text :
    let int : State := { State.reset with seed := 0x352441C2 }
    (int.Ready ∧ used123.Ready ∧ checkOf .seedInt int = none ∧ checkOf .seedHash used123 = none ∧
      int.seed ≠ used123.seed) ∧
      (reaches (exec .seedInt int) fun u => u.state == 0x352441C2) ∧
      reaches (exec .seedHash used123) fun u => u.state == 0x352441C2 :=
  ⟨by decide +kernel, by decide +kernel, by decide +kernel⟩

/-- The last two draws the counter allows; and two `NEXT_BYTE`s with `MAX` below `MIN`. -/
theorem witness_save_restore_roundtrip :
    (let s : State := { seeded123 with ctr := 0xFFFFFFFFFFFFFFFD };
      let draws : List Instr := [.nextInt, .nextByte false];
      s.Ready ∧ s.seeded = true ∧ draws.all isDraw = true ∧ .nextInt ∈ draws ∧ s.minReg.toInt ≤ s.maxReg.toInt ∧
        s.ctr.toNat + draws.length < 2 ^ 64) ∧
    (let s : State := { seeded123 with minReg := 5, maxReg := 4 };
      let draws : List Instr := [.nextByte true, .nextByte false];
      s.Ready ∧ s.seeded = true ∧ draws.all isDraw = true ∧ .nextInt ∉ draws ∧ s.maxReg.toInt < s.minReg.toInt ∧
        s.ctr.toNat + draws.length < 2 ^ 64) := by decide +kernel

/-- A text seed with a draw and a `SAVE` between its bytes. -/
theorem witness_text_seed :
    seeded123.Ready ∧ .hashStart ∉ ([.hashByte 0x61, .nextInt, .save, .hashByte 0x62] : List Instr) ∧
      reaches (execAll (.hashStart :: ([.hashByte 0x61, .nextInt, .save, .hashByte 0x62] ++ [.seedHash])) seeded123)
        fun t => t.errCode == 0 := by decide +kernel

/-! ### Witnesses: the register window -/

/-- Every offset of the map, read of one state. -/
theorem witness_idle_reads :
    let s : State :=
      { seeded123 with state := 1, incr := 2, ctr := 0x400000003, saved := 5, savedValid := true, hacc := 6,
                       seed := 0x800000007, minReg := 9, result := 0xB0000000A, errCode := 1, errInfo := 12 }
    s.serves = true ∧ s.busy = false ∧
      [((0x00 : Offset), (0 : Word)), (0x04, 0x106), (0x08, 7), (0x0C, 8), (0x10, 9), (0x14, 0xFF), (0x18, 0xA),
        (0x1C, 0xB), (0x20, 1), (0x24, 5), (0x28, 3), (0x2C, 4), (0x30, 2), (0x34, 0xFFFFFFF9), (0x38, 12),
        (0x3C, 0)].all fun p =>
          [((0x00 : Offset), (0 : Word)),
            (0x04, BitVec.ofNat 32 (s.seeded.toNat * 2 + s.savedValid.toNat * 4 + s.errCode.toNat * 2 ^ 8)),
            (0x08, BitVec.ofNat 32 s.seed.toNat), (0x0C, BitVec.ofNat 32 (s.seed.toNat / 2 ^ 32)),
            (0x10, s.minReg), (0x14, s.maxReg),
            (0x18, BitVec.ofNat 32 s.result.toNat), (0x1C, BitVec.ofNat 32 (s.result.toNat / 2 ^ 32)),
            (0x20, s.state), (0x24, s.saved),
            (0x28, BitVec.ofNat 32 s.ctr.toNat), (0x2C, BitVec.ofNat 32 (s.ctr.toNat / 2 ^ 32)),
            (0x30, s.incr), (0x34, s.hacc ^^^ 0xFFFFFFFF), (0x38, s.errInfo), (0x3C, 0)].contains p := by decide +kernel

theorem witness_illegal_access :
    (0x3F : Offset).toNat % 4 ≠ 0 ∧ (0x01 : Offset).toNat % 4 ≠ 0 ∧ (16 : Nat) ≠ 32 ∧ (64 : Nat) ≠ 32 := by decide

theorem witness_operand_writes : stuck.serves = true ∧ stuck.busy = false := by decide

theorem witness_busy_writes :
    busy123.serves = true ∧ busy123.busy = true ∧ ([0x00, 0x08, 0x0C, 0x10, 0x14] : List Offset).length = 5 ∧
      reaches (completePending busy123) fun u => u.state == 0xE6FDBC7C := by decide +kernel

theorem witness_busy_reads :
    busy123.serves = true ∧ busy123.busy = true ∧
      ([0x00, 0x04, 0x08, 0x0C, 0x10, 0x14, 0x20, 0x38, 0x3C] : List Offset).all fun o => o.toNat % 4 == 0 := by decide

theorem witness_reads_no_side_effect :
    (∃ t, hostDoes true (.read 0x20 32) busy123 = .next t) ∧ (∃ t, hostDoes true (.read 0x21 8) busy123 = .next t) ∧
      ∃ t, hostDoes false .wait busy123 = .next t := ⟨⟨_, rfl⟩, ⟨_, rfl⟩, ⟨_, rfl⟩⟩

theorem witness_split_reads :
    let s : State := { seeded123 with host := [.read 0x18 32, .read 0x1C 32], result := 0xFFFFFFFF00000001 }
    s.serves = true ∧ s.busy = false ∧
      ((0x18 : Offset), s.result) ∈ [((0x08 : Offset), s.seed), (0x18, s.result), (0x28, s.ctr)] ∧
      s.host = .read 0x18 32 :: .read (0x18 + 4) 32 :: [] := by decide

/-! ### Witnesses: reset and errors -/

theorem witness_held_reset : held.rst = true ∧ (0x3C : Offset).toNat % 4 = 0 := by decide

/-- One step for each disjunct of `OnlyResetClears`. -/
theorem witness_only_reset :
    (let s : State := { stuck with host := [.reset] };
      s.actNow ≠ some .powerCycle ∧ (reaches (step s) fun t => s.errCode != 0 && t.errCode != s.errCode)) ∧
    (let s : State := { seeded123 with host := [.assertRst] };
      s.actNow ≠ some .powerCycle ∧ (reaches (step s) fun t => s.seeded && !t.seeded)) ∧
    (let s : State := { seeded123 with savedValid := true, host := [.reset] };
      s.actNow ≠ some .powerCycle ∧ reaches (step s) fun t => s.savedValid && !t.savedValid) := by decide

/-- With an error recorded: a step of the engine while a reset is the host's next act, and a `CMD` write at the host's turn. -/
theorem witness_errors_sticky :
    (let s : State := { busy123 with errCode := 2, errInfo := 0x10, host := [.reset] };
      s.actNow ≠ some .powerCycle ∧ s.errCode ≠ 0 ∧ s.resetsNext = false ∧
        (reaches (step s) fun t => t.errCode == 2 && t.state == 0xE6FDBC7C)) ∧
    (stuck.serves = true ∧ stuck.busy = false ∧ stuck.errCode ≠ 0 ∧ (0x04 : Offset).toNat % 4 = 0) := by
  decide +kernel

/-- P5's first lines: a clean run. -/
theorem witness_clean :
    let s : State := { State.reset with host := actsHash [0x68] }
    .reset ∉ s.host ∧ .assertRst ∉ s.host ∧ .powerCycle ∉ s.host ∧
      reaches (steps 1 s) fun u => reaches (steps 3 u) fun t => decide t.Clean && t.hacc == 0x6E94F918 := by
  decide +kernel

/-- A read of `MIN` while busy, at the host's turn, breaks no hazard. -/
theorem witness_safe_act :
    let s : State := { busy123 with host := [.read 0x10 32], env := [⟨false, 0⟩] }
    s.nextActSafe = true ∧ s.rst = false ∧ reaches (step s) fun t => t.reads == [0] := by decide

/-- The hazards R245 and R246, and the bus fault, are not safe acts. -/
theorem test_unsafe_acts :
    ({ busy123 with host := [.read 0x18 32] } : State).nextActSafe = false ∧
      ({ busy123 with host := [.write 0x14 32 9] } : State).nextActSafe = false ∧
      ({ seeded123 with host := [.read 0x18 16] } : State).nextActSafe = false ∧
      ({ unpowered with host := [.read 0x18 32] } : State).nextActSafe = false := by decide

/-- Two blocks before their power goes; a block that has lost its state, a write to it, and the step that resets it. -/
theorem witness_power_loss :
    (busy123.free = stuck.free ∧ (∃ t, hostDoes true .powerCycle busy123 = .next t) ∧
      ∃ t, hostDoes true .powerCycle stuck = .next t) ∧
    (unpowered.lost = true ∧ (0x10 : Offset).toNat % 4 = 0 ∧
      let s : State := { unpowered with host := [.write 0x10 32 7] };
      s.actNow ≠ some .powerCycle ∧ (reaches (step s) fun t => t.lost)) ∧
    (let s : State := { unpowered with host := [.reset] };
      s.lost = true ∧ s.resetsNext = true ∧ (reaches (step s) fun t => !t.lost && t.block == State.reset.block)) :=
  ⟨⟨rfl, ⟨_, rfl⟩, ⟨_, rfl⟩⟩, by decide, by decide⟩

/-! ### Witnesses: steps -/

/-- The three ways a `CMD` write is met. -/
theorem witness_step_runs :
    decode 0x00000006 = .ok .nextInt ∧
      (let s : State := { seeded123 with host := [.write 0x00 32 0x00000006] };
        engineCompletes s = false ∧ engineActs s = true) ∧
      (let s : State := { busy123 with host := [.write 0x00 32 0x00000006], env := [⟨false, 0⟩] };
        engineCompletes s = false ∧ s.busy = true) ∧
      (let s : State := { seeded123 with host := [.write 0x00 32 0x00000006], env := [⟨false, 0⟩] };
        engineCompletes s = false ∧ engineActs s = false) := ⟨rfl, by decide, by decide, by decide⟩

theorem witness_accept_complete :
    (seeded123.busy = false ∧ (acceptOnly .nextInt seeded123).busy = true) ∧
      (State.reset.busy = false ∧ (acceptOnly .nextInt State.reset).busy = false) := by decide +kernel

theorem witness_engine_completes :
    engineCompletes busy123 = true ∧ busy123.pend = encode .nextInt ∧
      engineCompletes { busy123 with env := [⟨true, 7⟩] } = true := by decide

/-- Two host turns, the first of them a dropped write, then the completion. -/
theorem witness_pending_completes :
    let s : State := { busy123 with env := [⟨false, 0⟩, ⟨false, 0⟩], host := [.write 0x10 32 7] }
    s.lost = false ∧ s.busy = true ∧ s.pend = encode .nextInt ∧
      reaches (steps 3 s) fun t => !t.busy && t.state == 0xE6FDBC7C && t.errCode == 2 && t.minReg == 0 := by
  decide +kernel

theorem witness_wait :
    let s : State := { seeded123 with host := [.write 0x00 32 (encode .nextInt), .wait], env := [⟨false, 0⟩, ⟨false, 0⟩] }
    s.serves = true ∧ s.busy = false ∧ s.host = .write 0x00 32 (encode .nextInt) :: .wait :: [] := by decide

theorem witness_outcome :
    let ops : List PublicOp := [.construct (.integer 123), .nextInt 0 1000, .saveStatus, .nextBytes 2 true, .restoreStatus]
    let s : State := { State.reset with host := ops.flatMap PublicOp.acts }
    s.serves = true ∧ s.busy = false ∧ .construct .clock ∉ ops ∧ .reseed .clock ∉ ops := by decide +kernel

/-- A construction on a block that is busy and has an error recorded. -/
theorem witness_construct :
    let s : State :=
      { busy123 with errCode := 2, errInfo := 0x10, host := PublicOp.acts (.construct (.integer (-(2 ^ 32 - 1)))) }
    s.Inv ∧ (-(2 ^ 32 - 1) : Int).natAbs < 2 ^ 32 ∧
      s.host = PublicOp.acts (.construct (.integer (-(2 ^ 32 - 1)))) ++ [] := by decide +kernel

/-- A construction on the block as power-up leaves it (R243). -/
theorem witness_construct_after_power_up :
    let s : State := { State.powerUp with host := PublicOp.acts (.construct (.integer 123)) }
    s.Inv ∧ (123 : Int).natAbs < 2 ^ 32 ∧ s.host = PublicOp.acts (.construct (.integer 123)) ++ [] :=
  ⟨fun h => absurd (show State.powerUp.lost = false from h) (by decide), by decide, by decide +kernel⟩

theorem witness_next_bytes :
    let s : State := { seeded123 with ctr := 0xFFFFFFFFFFFFFFFD, host := actsNextBytes 2 true }
    s.Ready ∧ s.seeded = true ∧ s.ctr.toNat + 2 < 2 ^ 64 ∧ s.host = actsNextBytes 2 true ++ [] := by decide +kernel

theorem witness_fetch_word :
    decodeTableWord 32 0x00000107 = some (.nextByte true) ∧ decodeTableWord 32 0x00000009 = some .restore := by decide

/-- The invariant, with a command pending, and a step from there. -/
theorem witness_step_keeps :
    busy123.Inv ∧ reaches (step busy123) fun t => t.state == 0xE6FDBC7C && !t.busy := by decide +kernel

/-- A step for each way the counter moves. -/
theorem witness_counter :
    (seeded123.Inv ∧ seeded123.actNow ≠ some .powerCycle ∧ seeded123.resetsNext = false) ∧
      (reaches (step busy123) fun t => t.ctr == 1) ∧
      (let s : State := { seeded123 with ctr := 5, host := [.write 0x00 32 (encode .seedInt)] };
        s.Inv ∧ s.actNow ≠ some .powerCycle ∧ s.resetsNext = false ∧
          reaches (step s) fun t => t.ctr == 0 && t.seeded) :=
  ⟨by decide +kernel, by decide +kernel, by decide +kernel⟩

end Sys2Proof.Tests
end

section
namespace Sys2Proof.Machine

/-! ### What a read returns while no command is pending (R65), and what it then returns after reset (R42) -/

/-- A read while the block serves and no command is pending returns the word's content (R65). -/
theorem readWord_idle (r : RegName) (s : State) (h : s.serves = true) (hb : s.busy = false) :
    readWord r s = regContent r s := by
  obtain ⟨hrst, hlost⟩ := (serves_iff s).1 h
  simp [readWord, hrst, hlost, hb]

@[simp] theorem reset_serves : State.reset.serves = true := rfl

@[simp] theorem reset_busy : State.reset.busy = false := rfl

/-- `BUSY`, `SEEDED`, `SAVED_VALID` and `ERR_CODE` are all 0 after reset (R35). -/
theorem statusWord_reset : statusWord State.reset = 0 := by decide

@[simp] theorem loHalf_zero : loHalf 0 = 0 := by decide

@[simp] theorem hiHalf_zero : hiHalf 0 = 0 := by decide

/-- The final inversion takes the accumulator's reset value to the CRC-32 of the empty string. -/
theorem crcFinal_allOnes : crcFinal 0xFFFFFFFF = 0 := by decide

/-- After reset every register word holds 0 but `MAX`: each is a register's reset value, a half of one, `STATUS`, or the
inverted accumulator. -/
theorem regContent_reset (r : RegName) : regContent r State.reset = if r = .max then 0x000000FF else 0 := by
  cases r with
  | cmd | reserved => rfl
  | status => exact statusWord_reset
  | seedLo | resultLo | ctrLo => exact loHalf_zero
  | seedHi | resultHi | ctrHi => exact hiHalf_zero
  | min | max | state | saved | incr | errInfo => rfl
  | hash => exact crcFinal_allOnes

/-- Settles O40: each register is the field `State.reset` writes, and the block then serves with no command pending, so a
read returns the word's content. -/
theorem resetValues : Obligations.ResetValues := by
  refine ⟨rfl, rfl, rfl, rfl, rfl, rfl, rfl, rfl, rfl, rfl, rfl, rfl, rfl, rfl, fun x => ?_⟩
  rw [readWord_idle x State.reset reset_serves reset_busy]
  exact regContent_reset x

end Sys2Proof.Machine
end

section
namespace Sys2Proof.Machine

/-! ### Writes while a command is pending (R67) -/

/-- A write at a register's own offset is a legal access, and reaches that register (R61, R62). -/
theorem busWrite_offset (engine : Bool) (r : RegName) (v : Word) (s : State) :
    busWrite engine r.offset 32 v s = regWrite engine r v s := by
  have hlegal : legalAccess r.offset 32 = true := by cases r <;> rfl
  rw [busWrite, if_pos hlegal, ofOffset_offset]

theorem whenCommandable_busy (s : State) (k : State → State) (h : s.serves = true) (hb : s.busy = true) :
    whenCommandable s k = raiseError .busy 0 s := whenWritable_busy RegName.cmd.offset s _ h hb

/-- A write to `CMD` while a command is pending records code 2, whatever the word and whoever's turn it is (R67, R213). -/
theorem writeCommand_busy (engine : Bool) (w : Word) (s : State) (h : s.serves = true) (hb : s.busy = true) :
    writeCommand engine w s = .next (raiseError .busy 0 s) := by
  cases hd : decode w with
  | error e => rw [writeCommand_error engine w e s hd, presentIllegal, whenCommandable_busy s _ h hb]
  | ok i =>
    have hp (k : State → State) : present i (checkOf i) k s = raiseError .busy 0 s := whenCommandable_busy s _ h hb
    rw [writeCommand_ok engine w i s hd, exec_eq_present, acceptOnly, hp, hp, ite_self]

/-- `CMD` and the four operand words all pass the gate, so each drops a write while a command is pending. -/
theorem regWrite_busy (engine : Bool) (r : RegName) (v : Word) (s : State) (h : s.serves = true) (hb : s.busy = true)
    (hr : r ∈ [RegName.cmd, .seedLo, .seedHi, .min, .max]) :
    regWrite engine r v s = .next (raiseError .busy (r.offset.setWidth 32) s) := by
  simp only [List.mem_cons, List.not_mem_nil, or_false] at hr
  obtain rfl | rfl | rfl | rfl | rfl := hr
  · exact writeCommand_busy engine v s h hb
  all_goals exact congrArg _ (whenWritable_busy _ s _ h hb)

/-! ### The error record and a command's effect (R67, R212) -/

/-- No effect reads the error record. -/
theorem effectOf_errorRecord (i : Instr) (code : BitVec 4) (info : Word) (s : State) :
    effectOf i { s with errCode := code, errInfo := info } =
      { effectOf i s with errCode := code, errInfo := info } := by cases i <;> rfl

/-- A completion carries the error record along, and is otherwise the same whatever the record holds. -/
theorem completePending_errorRecord (code : BitVec 4) (info : Word) (s u : State) (h : completePending s = .next u) :
    completePending { s with errCode := code, errInfo := info } =
      .next { u with errCode := code, errInfo := info } := by
  cases hd : decode s.pend with
  | error e => simp [completePending, hd] at h
  | ok i =>
    rw [completePending_ok s i hd] at h
    cases h
    rw [completePending_ok { s with errCode := code, errInfo := info } i hd, complete, effectOf_errorRecord, complete]

/-- What `raiseError` leaves is the state it was given, but for the error record. -/
theorem raiseError_eq_errorRecord (e : ErrorCode) (info : Word) (s : State) :
    { s with errCode := (raiseError e info s).errCode, errInfo := (raiseError e info s).errInfo } =
      raiseError e info s := by
  by_cases h : s.errCode = 0
  · simp [raiseError_first s e info h]
  · simp [raiseError_later s e info h]

/-- Settles O36: the gate of `CMD` and of the operand words drops the write and raises code 2, and the pending completion
neither reads nor writes the error record. -/
theorem writesWhileBusyAreDropped : Obligations.WritesWhileBusyAreDropped := by
  intro engine off v s h hb hoff
  change off ∈ [RegName.cmd, .seedLo, .seedHi, .min, .max].map RegName.offset at hoff
  obtain ⟨r, hr, rfl⟩ := List.mem_map.1 hoff
  refine ⟨raiseError .busy (r.offset.setWidth 32) s, ?_, rfl, fun u hu => ?_⟩
  · rw [busWrite_offset, regWrite_busy engine r v s h hb hr]
  · rw [← completePending_errorRecord _ _ s u hu, raiseError_eq_errorRecord]

end Sys2Proof.Machine
end

section
namespace Sys2Proof

/-! ### The encoder field by field (R90, R94) -/

/-- What the opcode map says of each command's word, for every command. -/
theorem encodedFields (i : Instr) : Laws.EncodedFields.Statement i := by
  cases i with
  | nop => exact Laws.EncodedFields.nop
  | seedInt => exact Laws.EncodedFields.seedInt
  | seedTime => exact Laws.EncodedFields.seedTime
  | hashStart => exact Laws.EncodedFields.hashStart
  | hashByte b => exact Laws.EncodedFields.hashByte b
  | seedHash => exact Laws.EncodedFields.seedHash
  | nextInt => exact Laws.EncodedFields.nextInt
  | nextByte readable => exact Laws.EncodedFields.nextByte readable
  | save => exact Laws.EncodedFields.save
  | restore => exact Laws.EncodedFields.restore

@[simp] theorem opcField_encode (i : Instr) : opcField (encode i) = i.opc := by
  obtain ⟨hopc, -⟩ := encodedFields i
  exact hopc

@[simp] theorem immField_encode (i : Instr) : immField (encode i) = i.imm := by
  obtain ⟨-, himm, -⟩ := encodedFields i
  exact himm

@[simp] theorem rsvdField_encode (i : Instr) : rsvdField (encode i) = 0 := by
  obtain ⟨-, -, hrsvd, -⟩ := encodedFields i
  exact hrsvd

/-- The word of a command is legal by R97's own conditions. -/
theorem legalWord_encode (i : Instr) : legalWord (encode i) = true := by
  obtain ⟨-, -, -, hlegal, -⟩ := encodedFields i
  exact hlegal

/-- A word is a command's word exactly when its three fields are those of the command's row. -/
theorem encode_eq_iff_fields (i : Instr) (w : Word) :
    encode i = w ↔ rsvdField w = 0 ∧ opcField w = i.opc ∧ immField w = i.imm := by
  constructor
  · rintro rfl
    exact ⟨rsvdField_encode i, opcField_encode i, immField_encode i⟩
  · rintro ⟨hr, ho, hi⟩
    have hr' : w.toNat / 2 ^ 16 = 0 := by rw [← rsvdField_toNat, hr]; rfl
    apply BitVec.eq_of_toNat_eq
    rw [encode_toNat, ← ho, ← hi, opcField_toNat, immField_toNat]
    omega

/-! ### The decoder, branch by branch (R100) -/

/-- An immediate whose bits 7 to 1 are clear is the bit `R` alone (R96). -/
theorem imm_eq_readable (b : Byte) (h : b.extractLsb' 1 7 = 0) : b = (BitVec.ofBool (b.getLsbD 0)).setWidth 8 := by
  revert b
  decide

/-- The opcodes `decodeOpcode` takes are the map's rows without an immediate. -/
theorem decodeOpcode_ok {opc : Byte} {i : Instr} (h : decodeOpcode opc = .ok i) : opc = i.opc ∧ i.imm = 0 := by
  unfold decodeOpcode at h
  split at h <;> cases h <;> exact ⟨BitVec.eq_of_toNat_eq ‹_›, rfl⟩

/-- The opcodes `decodeOpcode` refuses, but for the two it is never asked about, are those from 0x0A on. -/
theorem decodeOpcode_error {opc : Byte} {e : DecodeReject} (h : decodeOpcode opc = .error e) (h4 : opc ≠ 0x04)
    (h7 : opc ≠ 0x07) : 0x0A ≤ opc.toNat := by
  have h4' : opc.toNat ≠ 4 := fun hn => h4 (BitVec.eq_of_toNat_eq hn)
  have h7' : opc.toNat ≠ 7 := fun hn => h7 (BitVec.eq_of_toNat_eq hn)
  unfold decodeOpcode at h
  split at h <;> cases h
  simp only [imp_false] at *
  omega

/-- The decoder undoes the encoder. -/
theorem decode_encode (i : Instr) : decode (encode i) = .ok i := by
  rw [decode, rsvdField_encode, opcField_encode, immField_encode]
  cases i with
  | nextByte readable => cases readable <;> rfl
  | _ => rfl

/-- A word the decoder takes is the word of the command it gives: each branch checks the fields of its row. -/
theorem encode_of_decode {w : Word} {i : Instr} (h : decode w = .ok i) : encode i = w := by
  rw [encode_eq_iff_fields]
  unfold decode at h
  split_ifs at h with hr h4 h7 hR hi
  · cases h
    exact ⟨not_not.1 hr, h4, rfl⟩
  · cases h
    exact ⟨not_not.1 hr, h7, imm_eq_readable _ hR⟩
  · obtain ⟨ho, h0⟩ := decodeOpcode_ok h
    exact ⟨not_not.1 hr, ho, (not_not.1 hi).trans h0.symm⟩

/-- The decoder takes a word exactly where the encoder makes it. -/
theorem decode_eq_ok_iff (w : Word) (i : Instr) : decode w = .ok i ↔ encode i = w :=
  ⟨encode_of_decode, fun h => h ▸ decode_encode i⟩

theorem encode_injective : Function.Injective encode := fun i j h =>
  Except.ok.inj (((decode_eq_ok_iff _ i).2 h).symm.trans (decode_encode j))

/-! ### The legal words (R94) -/

/-- `HASH_BYTE b` is the byte over the opcode 0x04. -/
theorem eq_encode_hashByte_iff (b : Byte) (w : Word) :
    w = encode (.hashByte b) ↔ w.toNat = b.toNat * 2 ^ 8 + 0x04 := by
  rw [← BitVec.toNat_inj, encode_toNat]
  rfl

/-- The commands whose word is fixed, in the map's order. -/
def fixedCommands : List Instr :=
  [.nop, .seedInt, .seedTime, .hashStart, .seedHash, .nextInt, .nextByte false, .nextByte true, .save, .restore]

/-- Every command: those with a fixed word, and `HASH_BYTE` with each byte. -/
def allCommands : List Instr := fixedCommands ++ (List.finRange 256).map fun n => .hashByte (BitVec.ofFin n)

theorem mem_allCommands (i : Instr) : i ∈ allCommands := by
  rw [allCommands, List.mem_append]
  cases i with
  | hashByte b => exact .inr (List.mem_map.2 ⟨b.toFin, List.mem_finRange _, rfl⟩)
  | nextByte readable => exact .inl (by cases readable <;> simp [fixedCommands])
  | _ => exact .inl (by simp [fixedCommands])

theorem nodup_allCommands : allCommands.Nodup := by
  refine List.Nodup.append (by decide) ((List.nodup_finRange 256).map fun m n h => ?_) ?_
  · exact BitVec.ofFin.inj (Instr.hashByte.inj h)
  · simp [List.Disjoint, fixedCommands]

theorem length_allCommands : allCommands.length = 266 := by simp [allCommands, fixedCommands]

/-- Settles O2: the decoder takes a word exactly where the encoder makes it, and the encoder's words, row by row, are those
of the map; encoding the list of every command gives the legal words without repetition. -/
theorem legalWordsAreTheOpcodeMap : Obligations.LegalWordsAreTheOpcodeMap := by
  refine ⟨fun w i => ?_, allCommands.map encode, nodup_allCommands.map encode_injective, ?_, fun w => ?_⟩
  · rw [decode_eq_ok_iff, eq_comm]
    cases i with
    | hashByte b => simp [eq_encode_hashByte_iff]
    | nextByte readable => cases readable <;> simp
    | _ => simp
  · rw [List.length_map, length_allCommands]
  · simp [decode_eq_ok_iff, mem_allCommands]

/-! ### The illegal words (R97) -/

theorem opcField_eq_iff (w : Word) (b : Byte) : opcField w = b ↔ w.toNat % 2 ^ 8 = b.toNat := by
  rw [← opcField_toNat, BitVec.toNat_inj]

theorem immField_eq_zero_iff (w : Word) : immField w = 0 ↔ w.toNat / 2 ^ 8 % 2 ^ 8 = 0 := by
  rw [← immField_toNat, ← BitVec.toNat_inj]
  rfl

theorem rsvdField_eq_zero_iff (w : Word) : rsvdField w = 0 ↔ w.toNat / 2 ^ 16 = 0 := by
  rw [← rsvdField_toNat, ← BitVec.toNat_inj]
  rfl

/-- The bits of `IMM` above `R` are `w[15:9]` (R96). -/
theorem immField_high_eq_zero_iff (w : Word) :
    (immField w).extractLsb' 1 7 = 0 ↔ w.toNat / 2 ^ 9 % 2 ^ 7 = 0 := by
  rw [← BitVec.toNat_inj, BitVec.extractLsb'_toNat, immField_toNat, Nat.shiftRight_eq_div_pow]
  change _ = 0 ↔ _
  omega

/-- R97's conditions in terms of the fields the decoder looks at. -/
theorem legalWord_iff_fields (w : Word) :
    legalWord w = true ↔
      rsvdField w = 0 ∧ (opcField w).toNat < 0x0A ∧ (opcField w = 0x04 ∨ opcField w = 0x07 ∨ immField w = 0) ∧
      (opcField w = 0x07 → (immField w).extractLsb' 1 7 = 0) := by
  rw [rsvdField_eq_zero_iff, opcField_toNat, opcField_eq_iff, opcField_eq_iff, immField_eq_zero_iff,
    immField_high_eq_zero_iff]
  simp [legalWord, rsvdClear, opcDefined, immUnused, readableBitOnly, and_assoc, or_assoc, imp_iff_not_or]

/-- Each check of the decoder that refuses a word is one of R97's conditions. -/
theorem legalWord_of_decode_error {w : Word} {e : DecodeReject} (h : decode w = .error e) : legalWord w = false := by
  rw [← Bool.not_eq_true, legalWord_iff_fields]
  rintro ⟨hrsvd, hopc, himm, hread⟩
  unfold decode at h
  split_ifs at h with hr h4 h7 hR hi
  · exact hr hrsvd
  · exact hR (hread h7)
  · exact (himm.resolve_left h4).elim h7 hi
  · exact absurd hopc (not_lt.2 (decodeOpcode_error h h4 h7))

/-- `legalWord` is legality as the decoder sees it: the decoder gives no command exactly where it is false. -/
theorem decode_ne_ok_iff_not_legalWord (w : Word) : (∀ i, decode w ≠ .ok i) ↔ legalWord w = false := by
  constructor
  · intro h
    cases hd : decode w with
    | error e => exact legalWord_of_decode_error hd
    | ok i => exact absurd hd (h i)
  · intro h i hd
    rw [← encode_of_decode hd, legalWord_encode] at h
    cases h

/-- `legalWord` is the negation of R97's four conditions, written out. -/
theorem legalWord_eq_false_iff (w : Word) :
    legalWord w = false ↔
      w.toNat / 2 ^ 16 ≠ 0 ∨ w.toNat % 2 ^ 8 ≥ 0x0A ∨
      (w.toNat % 2 ^ 8 ≠ 0x04 ∧ w.toNat % 2 ^ 8 ≠ 0x07 ∧ w.toNat / 2 ^ 8 % 2 ^ 8 ≠ 0) ∨
      (w.toNat % 2 ^ 8 = 0x07 ∧ w.toNat / 2 ^ 9 % 2 ^ 7 ≠ 0) := by
  simp only [legalWord, rsvdClear, opcDefined, immUnused, readableBitOnly, Bool.and_eq_false_iff, Bool.or_eq_false_iff,
    Bool.not_eq_false', beq_eq_false_iff_ne, beq_iff_eq, decide_eq_false_iff_not, not_lt, or_assoc, and_assoc]

end Sys2Proof
end

section
namespace Sys2Proof.Machine

/-! ### The rejection of an illegal word (R97) -/

/-- An illegal word written to `CMD` of a block that takes commands sets the error record and nothing else (R97, R213). -/
theorem writeCommand_illegal (engine : Bool) (w : Word) (s : State) (h : ∀ i, decode w ≠ .ok i) (hs : s.Ready) :
    writeCommand engine w s = .next { s with errCode := 1, errInfo := w } := by
  obtain ⟨hserves, hbusy, herr⟩ := hs
  cases hd : decode w with
  | ok i => exact absurd hd (h i)
  | error e =>
    rw [writeCommand_error engine w e s hd, presentIllegal,
      whenCommandable_open s _ hserves hbusy herr, raiseError_first s _ w herr]
    rfl

/-- Settles O3: the decoder refuses exactly the words with one of R97's four conditions, and `CMD` is the word at offset 0. -/
theorem illegalWordsAreRejected : Obligations.IllegalWordsAreRejected := by
  intro w illegal
  have hillegal : (∀ i, decode w ≠ .ok i) ↔ illegal :=
    (decode_ne_ok_iff_not_legalWord w).trans (legalWord_eq_false_iff w)
  refine ⟨hillegal, fun engine s h hs => ?_⟩
  rw [← writeCommand_illegal engine w s (hillegal.2 h) hs]
  exact busWrite_offset engine .cmd w s

end Sys2Proof.Machine
end

section
namespace Sys2Proof.Machine

/-! ### The generic checks, the same for every command (R213, R240) -/

theorem whenCommandable_held (s : State) (k : State → State) (h : s.serves = false) : whenCommandable s k = s :=
  whenWritable_held RegName.cmd.offset s _ h

theorem whenCommandable_errored (s : State) (k : State → State) (h : s.serves = true) (hb : s.busy = false)
    (he : s.errCode ≠ 0) : whenCommandable s k = s :=
  (whenWritable_open RegName.cmd.offset s _ h hb).trans (if_pos he)

/-- Every command passes the gate of `CMD` before its own check. -/
theorem genericChecks (i : Instr) : GenericChecks i := by
  refine fun s => ⟨fun hr => ?_, fun h hb => ?_, fun h hb he => ?_⟩ <;> rw [exec_eq_present, present]
  · rw [whenCommandable_held s _ ((not_serves_iff s).2 (.inl hr))]
  · rw [whenCommandable_busy s _ h hb]
    rfl
  · rw [whenCommandable_errored s _ h hb he]

/-! ### A command accepted by a block that takes commands -/

/-- Acceptance alone leaves the command pending (R70). -/
theorem acceptOnly_ready (i : Instr) (s : State) (hs : s.Ready) (hc : checkOf i s = none) :
    acceptOnly i s = accept i s := by
  obtain ⟨h, hb, he⟩ := hs
  simp [acceptOnly, present, whenCommandable_open, h, hb, he, hc]

/-! ### Seeding (R121) -/

/-- The value a seeding command derives from its own operand (R122, R125, R128); other commands have none. -/
def derivedSeed (i : Instr) (s : State) : Nat :=
  match i with
  | .seedInt => (seedValue s).natAbs
  | .seedTime => s.timeS.toNat
  | .seedHash => (crcFinal s.hacc).toNat
  | .nop | .hashStart | .hashByte _ | .nextInt | .nextByte _ | .save | .restore => 0

/-- A seeding command's effect on the state with it pending is `Seed` of the value derived at acceptance. -/
theorem effectOf_accept_seeding (i : Instr) (s : State) (hi : isSeeding i = true) :
    effectOf i (accept i s) = seedWith (derivedSeed i s) (accept i s) := by
  cases i with
  | seedInt | seedTime | seedHash => rfl
  | _ => cases hi

/-- The whole next state of a seeding command that is not rejected. -/
theorem exec_seeding (i : Instr) (s : State) (hi : isSeeding i = true) (hs : s.Ready) (hc : checkOf i s = none) :
    exec i s = .next { s with
      pend := encode i, pendT := (accept i s).pendT
      state := BitVec.ofNat 32 (derivedSeed i s), ctr := 0, seeded := true } := by
  obtain ⟨h, hb, he⟩ := hs
  rw [exec_accepted i s h hb he hc, complete, effectOf_accept_seeding i s hi, ← hb]
  rfl

/-- A seed that does not fit 32 bits is rejected by its check with code 5 (R123, R126). -/
theorem exec_seedRange (i : Instr) (s : State) (hs : s.Ready) (hc : checkOf i s = some .seedRange) :
    exec i s = .next { s with errCode := 5, errInfo := encode i } := by
  obtain ⟨h, hb, he⟩ := hs
  exact exec_rejected i s .seedRange h hb he hc

/-- Settles O15: `SEED_INT`'s check passes exactly when the absolute value fits, and its derived seed is that value. -/
theorem seedIntSeedsAbsoluteValue : Obligations.SeedIntSeedsAbsoluteValue := by
  refine ⟨by decide, genericChecks .seedInt, fun s hs => ⟨fun hlt => ?_, fun hge => ?_⟩⟩
  · exact ⟨_, exec_seeding .seedInt s rfl hs (if_pos hlt)⟩
  · exact exec_seedRange .seedInt s hs (if_neg (not_lt.2 hge))

/-- The completion of a pending `SEED_TIME` seeds with the sample `PEND_T`, whatever `TIME_S` shows (R125). -/
theorem completePending_seedTime (s : State) (hp : s.pend = encode .seedTime) :
    completePending s = .next { s with
      state := BitVec.ofNat 32 s.pendT.toNat, ctr := 0, seeded := true, busy := false } :=
  completePending_ok s .seedTime (hp ▸ decode_encode .seedTime)

/-- Settles O16: the sample is the derived seed of `SEED_TIME`; acceptance alone keeps it in `PEND_T`, where the
completion finds it. -/
theorem seedTimeSeedsTheClock : Obligations.SeedTimeSeedsTheClock := by
  refine ⟨by decide, genericChecks .seedTime, fun s hs => ⟨fun hlt => ?_, fun hlt => ?_, fun hge => ?_⟩⟩
  · exact ⟨_, _, exec_seeding .seedTime s rfl hs (if_pos hlt)⟩
  · have haccept : acceptOnly .seedTime s = accept .seedTime s := acceptOnly_ready .seedTime s hs (if_pos hlt)
    obtain ⟨-, hb, -⟩ := hs
    refine ⟨haccept, fun later => ⟨encode .seedTime, s.timeS, ?_⟩⟩
    rw [haccept, completePending_seedTime _ rfl, ← hb]
    rfl
  · exact exec_seedRange .seedTime s hs (if_neg (not_lt.2 hge))

/-- Settles O17: `SEED_HASH` has no check of its own, and its derived seed is the inverted accumulator. -/
theorem seedHashSeedsTheHash : Obligations.SeedHashSeedsTheHash := by
  refine ⟨by decide, genericChecks .seedHash, fun s hs => ⟨encode .seedHash, ?_⟩⟩
  rw [exec_seeding .seedHash s rfl hs rfl, derivedSeed, BitVec.ofNat_toNat, BitVec.setWidth_eq]
  rfl

end Sys2Proof.Machine
end

section
namespace Sys2Proof.Machine

/-! ### Sequences of commands as a fold of total next states -/

/-- The state a command leaves behind: a command always answers one. -/
def execTo (s : State) (i : Instr) : State := present i (checkOf i) (complete (effectOf i)) s

theorem exec_eq_execTo (i : Instr) (s : State) : exec i s = .next (execTo s i) := exec_eq_present i s

/-- `execAll` folds the next states, first command first. -/
theorem execAll_eq_foldl (is : List Instr) (s : State) : execAll is s = .next (is.foldl execTo s) := by
  induction is generalizing s with
  | nil => rfl
  | cons i is ih => rw [execAll, exec_eq_execTo, List.foldl_cons]; exact ih (execTo s i)

theorem execTo_of_exec {i : Instr} {s t : State} (h : exec i s = .next t) : execTo s i = t :=
  Host.Outcome.next.inj ((exec_eq_execTo i s).symm.trans h)

theorem foldl_execTo_of_execAll {is : List Instr} {s t : State} (h : execAll is s = .next t) : is.foldl execTo s = t :=
  Host.Outcome.next.inj ((execAll_eq_foldl is s).symm.trans h)

theorem execTo_accepted (i : Instr) (s : State) (hs : s.Ready) (hc : checkOf i s = none) :
    execTo s i = complete (effectOf i) (accept i s) := by
  obtain ⟨h, hb, he⟩ := hs
  exact execTo_of_exec (exec_accepted i s h hb he hc)

theorem execTo_rejected (i : Instr) (s : State) (e : ErrorCode) (hs : s.Ready) (hc : checkOf i s = some e) :
    execTo s i = { s with errCode := e.bits, errInfo := encode i } := by
  obtain ⟨h, hb, he⟩ := hs
  exact execTo_of_exec (exec_rejected i s e h hb he hc)

/-- Once an error is recorded, no command does anything (R215). -/
theorem execTo_errored (i : Instr) (s : State) (he : s.errCode ≠ 0) : execTo s i = s := by
  obtain ⟨-, ht⟩ | ⟨-, -, ht⟩ | ⟨-, -, -, ht⟩ | ⟨-, -, h0, -⟩ | ⟨-, -, h0, -⟩ :=
    present_cases i (checkOf i) (complete (effectOf i)) s
  · exact ht
  · exact ht.trans (raiseError_later s .busy 0 he)
  · exact ht
  · exact absurd h0 he
  · exact absurd h0 he

theorem foldl_execTo_errored (is : List Instr) (s : State) (he : s.errCode ≠ 0) : is.foldl execTo s = s := by
  induction is with
  | nil => rfl
  | cons i is ih => rw [List.foldl_cons, execTo_errored i s he, ih]

/-- Where no error is recorded at the end of a sequence, none was at its start. -/
theorem errCode_of_foldl_execTo {is : List Instr} {s : State} (he : (is.foldl execTo s).errCode = 0) :
    s.errCode = 0 := by
  by_contra h
  exact h (foldl_execTo_errored is s h ▸ he)

/-- A command leaves a block that takes commands ready again where its check passes. -/
theorem execTo_ready_of_check (i : Instr) (s : State) (hs : s.Ready) (hc : checkOf i s = none) :
    (execTo s i).Ready := by
  rw [execTo_accepted i s hs hc]
  obtain ⟨h, -, he⟩ := hs
  exact ⟨by simpa using h, rfl, by simpa using he⟩

/-- A command that records no error has passed its check. -/
theorem checkOf_of_execTo {i : Instr} {s : State} (hs : s.Ready) (he : (execTo s i).errCode = 0) :
    checkOf i s = none := by
  cases hc : checkOf i s with
  | none => rfl
  | some e =>
    rw [execTo_rejected i s e hs hc] at he
    exact absurd he (errorBits_ne_zero e)

/-- A sequence that ends without an error leaves the block ready. -/
theorem foldl_execTo_ready (is : List Instr) (s : State) (hs : s.Ready) (he : (is.foldl execTo s).errCode = 0) :
    (is.foldl execTo s).Ready := by
  induction is generalizing s with
  | nil => exact hs
  | cons i is ih =>
    have hc : checkOf i s = none := checkOf_of_execTo hs (errCode_of_foldl_execTo he)
    exact ih (execTo s i) (execTo_ready_of_check i s hs hc) he

/-- Commands whose checks always pass leave the block ready. -/
theorem foldl_execTo_ready_of_checks (is : List Instr) (s : State) (hs : s.Ready)
    (hc : ∀ i ∈ is, ∀ u, checkOf i u = none) : (is.foldl execTo s).Ready := by
  induction is generalizing s with
  | nil => exact hs
  | cons i is ih =>
    rw [List.forall_mem_cons] at hc
    obtain ⟨hi, his⟩ := hc
    exact ih (execTo s i) (execTo_ready_of_check i s hs (hi s)) his

end Sys2Proof.Machine
end

section
namespace Sys2Proof.Machine

/-! ### The text seed (R129) -/

/-- The byte a command feeds to the accumulator. -/
def hashedByte? : Instr → Option Byte
  | .hashByte b => some b
  | .nop | .seedInt | .seedTime | .hashStart | .seedHash | .nextInt | .nextByte _ | .save | .restore => none

/-- Only `HASH_START` sets the accumulator back; any other command feeds it at most its byte (R148, R151). -/
theorem effectOf_hacc (i : Instr) (s : State) (hi : i ≠ .hashStart) :
    (effectOf i s).hacc = crcFeed s.hacc (hashedByte? i).toList := by
  cases i with
  | hashStart => exact absurd rfl hi
  | _ => rfl

/-- A sequence without `HASH_START` and without an error feeds the accumulator the bytes of its `HASH_BYTE`s in order. -/
theorem foldl_execTo_hacc (is : List Instr) (s : State) (hs : s.Ready) (hi : .hashStart ∉ is)
    (he : (is.foldl execTo s).errCode = 0) :
    (is.foldl execTo s).hacc = crcFeed s.hacc (is.filterMap hashedByte?) := by
  induction is generalizing s with
  | nil => rfl
  | cons i is ih =>
    rw [List.mem_cons, not_or] at hi
    obtain ⟨hne, his⟩ := hi
    have hc : checkOf i s = none := checkOf_of_execTo hs (errCode_of_foldl_execTo he)
    have hstep : (execTo s i).hacc = crcFeed s.hacc (hashedByte? i).toList := by
      rw [execTo_accepted i s hs hc, complete_hacc, effectOf_hacc i _ (Ne.symm hne), accept_hacc]
    rw [List.foldl_cons, ih (execTo s i) (execTo_ready_of_check i s hs hc) his he, hstep, ← crcFeed_append,
      List.filterMap_eq_flatMap_toList, List.filterMap_eq_flatMap_toList, List.flatMap_cons]

theorem execTo_seedHash (s : State) (hs : s.Ready) :
    (execTo s .seedHash).state = crcFinal s.hacc ∧ (execTo s .seedHash).ctr = 0 ∧
      (execTo s .seedHash).seeded = true := by
  rw [execTo_of_exec (exec_seeding .seedHash s rfl hs rfl)]
  exact ⟨by simp [derivedSeed], rfl, rfl⟩

/-- `HASH_START`, any commands but another `HASH_START`, then `SEED_HASH`: where no error is recorded, the block is
seeded with the hash of the bytes fed in between. -/
theorem foldl_execTo_textSeed (between : List Instr) (s : State) (hs : s.Ready) (hi : .hashStart ∉ between)
    (he : ((Instr.hashStart :: (between ++ [.seedHash])).foldl execTo s).errCode = 0) :
    let t := (Instr.hashStart :: (between ++ [.seedHash])).foldl execTo s
    t.state = hash32 (between.filterMap hashedByte?) ∧ t.ctr = 0 ∧ t.seeded = true := by
  have hstart : (execTo s .hashStart).Ready := execTo_ready_of_check .hashStart s hs rfl
  have hinit : (execTo s .hashStart).hacc = crcInit := by rw [execTo_accepted .hashStart s hs rfl]; rfl
  rw [List.foldl_cons, List.foldl_append] at he ⊢
  have hfed : (between.foldl execTo (execTo s .hashStart)).errCode = 0 := errCode_of_foldl_execTo he
  rw [hash32, ← hinit, ← foldl_execTo_hacc between _ hstart hi hfed]
  exact execTo_seedHash _ (foldl_execTo_ready between _ hstart hfed)

/-- The hash commands and `SEED_HASH` have no check of their own (R128, R147, R148). -/
theorem checkOf_textSeed (bytes : List Byte) (i : Instr)
    (hi : i ∈ Instr.hashStart :: (bytes.map .hashByte ++ [.seedHash])) (s : State) : checkOf i s = none := by
  simp only [List.mem_cons, List.mem_append, List.mem_map, List.not_mem_nil, or_false] at hi
  obtain rfl | ⟨b, -, rfl⟩ | rfl := hi <;> rfl

theorem filterMap_hashedByte?_map (bytes : List Byte) : (bytes.map .hashByte).filterMap hashedByte? = bytes := by
  rw [List.filterMap_map]
  exact List.filterMap_some

/-- Settles O32: `HASH_START` sets the accumulator to all ones, the commands after it feed it their bytes in order, and
`SEED_HASH` seeds with its inverse, which is `hash32` of those bytes. -/
theorem textSeedIsTheHash : Obligations.TextSeedIsTheHash := by
  refine ⟨fun bytes s hs => ⟨_, execAll_eq_foldl _ s, ?_⟩, by decide, fun before between s t hs hi ht he => ?_⟩
  · obtain ⟨-, -, he⟩ := foldl_execTo_ready_of_checks _ s hs (checkOf_textSeed bytes)
    obtain ⟨hstate, hctr, hseeded⟩ := foldl_execTo_textSeed (bytes.map .hashByte) s hs (by simp) he
    rw [filterMap_hashedByte?_map] at hstate
    exact ⟨hstate, hctr, hseeded, he⟩
  · obtain rfl := foldl_execTo_of_execAll ht
    rw [List.foldl_append] at he ⊢
    have hbefore : (before.foldl execTo s).Ready := foldl_execTo_ready before s hs (errCode_of_foldl_execTo he)
    obtain ⟨hstate, hctr, -⟩ := foldl_execTo_textSeed between _ hbefore hi he
    refine ⟨hstate.trans (congrArg hash32 (List.filterMap_congr fun i _ => ?_)), hctr⟩
    cases i <;> rfl

end Sys2Proof.Machine
end

section
namespace Sys2Proof.Machine

/-! ### Draws on two blocks with one generator (R131, R172) -/

/-- The two blocks serve with no command pending and agree on all that a draw reads and on the error code. -/
structure DrawsAlike (s s' : State) : Prop where
  serves : s.serves = true
  serves' : s'.serves = true
  idle : s.busy = false
  idle' : s'.busy = false
  errCode : s.errCode = s'.errCode
  seeded : s.seeded = s'.seeded
  state : s.state = s'.state
  ctr : s.ctr = s'.ctr
  minReg : s.minReg = s'.minReg
  maxReg : s.maxReg = s'.maxReg

/-- The range a draw command maps to (R167, R169); other commands have none. -/
def drawRange (i : Instr) (s : State) : Int × Int :=
  match i with
  | .nextInt => (minValue s, maxValue s)
  | .nextByte readable => (byteLo readable, byteHi readable)
  | .nop | .seedInt | .seedTime | .hashStart | .hashByte _ | .seedHash | .save | .restore => (0, 0)

theorem effectOf_draw (d : Instr) (s : State) (hd : isDraw d = true) :
    effectOf d s = drawWith (drawRange d s).1 (drawRange d s).2 s := by
  cases d with
  | nextInt | nextByte => rfl
  | _ => cases hd

@[simp] theorem drawRange_accept (d i : Instr) (s : State) : drawRange d (accept i s) = drawRange d s := by
  cases d <;> rfl

namespace DrawsAlike

variable {s s' : State} {d : Instr}

theorem ready (h : DrawsAlike s s') (he : s.errCode = 0) : s.Ready ∧ s'.Ready :=
  ⟨⟨h.serves, h.idle, he⟩, h.serves', h.idle', h.errCode ▸ he⟩

theorem minValue_eq (h : DrawsAlike s s') : minValue s = minValue s' := congrArg BitVec.toInt h.minReg

theorem maxValue_eq (h : DrawsAlike s s') : maxValue s = maxValue s' := congrArg BitVec.toInt h.maxReg

theorem checkOf_eq (h : DrawsAlike s s') (hd : isDraw d = true) : checkOf d s = checkOf d s' := by
  have hseeded : checkSeeded s = checkSeeded s' := by simp [checkSeeded, h.seeded]
  have hrange : checkRange s = checkRange s' := by rw [checkRange, checkRange, h.minValue_eq, h.maxValue_eq]
  have hctr : checkCounter s = checkCounter s' := by simp [checkCounter, h.ctr]
  cases d with
  | nextInt => rw [checkOf, checkNextInt, hseeded, hrange, hctr]; rfl
  | nextByte readable => rw [checkOf, checkNextByte, hseeded, hctr]; rfl
  | _ => cases hd

theorem drawRange_eq (h : DrawsAlike s s') (d : Instr) : drawRange d s = drawRange d s' := by
  cases d <;> simp only [drawRange, h.minValue_eq, h.maxValue_eq]

/-- A draw whose check passes on both gives both the same outputs, and keeps them alike. -/
theorem complete_draw (h : DrawsAlike s s') (hd : isDraw d = true) :
    let t := complete (effectOf d) (accept d s)
    let t' := complete (effectOf d) (accept d s')
    DrawsAlike t t' ∧ t.incr = t'.incr ∧ t.result = t'.result := by
  have hrange := h.drawRange_eq d
  obtain ⟨hs, hs', _, _, he, hseeded, hstate, hctr, hmin, hmax⟩ := h
  refine ⟨?_, ?_, ?_⟩
  · constructor <;> simp [effectOf_draw, hd, hs, hs', he, hseeded, hstate, hctr, hmin, hmax]
  · simp [effectOf_draw, hd, hstate, hctr]
  · simp [effectOf_draw, hd, hstate, hctr, hrange]

/-- A draw, accepted, rejected or ignored, keeps two such blocks alike. -/
theorem after_execTo (h : DrawsAlike s s') (hd : isDraw d = true) : DrawsAlike (execTo s d) (execTo s' d) := by
  by_cases he : s.errCode = 0
  · obtain ⟨hs, hs'⟩ := h.ready he
    cases hc : checkOf d s with
    | none =>
      rw [execTo_accepted d s hs hc, execTo_accepted d s' hs' (h.checkOf_eq hd ▸ hc)]
      exact (h.complete_draw hd).1
    | some e =>
      rw [execTo_rejected d s e hs hc, execTo_rejected d s' e hs' (h.checkOf_eq hd ▸ hc)]
      exact { h with errCode := rfl }
  · rw [execTo_errored d s he, execTo_errored d s' (h.errCode ▸ he)]
    exact h

/-- A draw that leaves no error recorded gives the same outputs on both. -/
theorem outputs_after_execTo (h : DrawsAlike s s') (hd : isDraw d = true) (he : (execTo s d).errCode = 0) :
    (execTo s d).incr = (execTo s' d).incr ∧ (execTo s d).result = (execTo s' d).result := by
  obtain ⟨hs, hs'⟩ := h.ready (errCode_of_foldl_execTo (is := [d]) he)
  have hc : checkOf d s = none := checkOf_of_execTo hs he
  rw [execTo_accepted d s hs hc, execTo_accepted d s' hs' (h.checkOf_eq hd ▸ hc)]
  exact (h.complete_draw hd).2

theorem after_foldl_execTo {draws : List Instr} (h : DrawsAlike s s') (hd : ∀ d ∈ draws, isDraw d = true) :
    DrawsAlike (draws.foldl execTo s) (draws.foldl execTo s') := by
  induction draws generalizing s s' with
  | nil => exact h
  | cons d draws ih =>
    rw [List.forall_mem_cons] at hd
    obtain ⟨hfirst, hrest⟩ := hd
    exact ih (h.after_execTo hfirst) hrest

/-- After a non-empty sequence of draws without an error both blocks show the last draw's outputs. -/
theorem outputs_after_foldl_execTo {draws : List Instr} (h : DrawsAlike s s') (hd : ∀ d ∈ draws, isDraw d = true)
    (hne : draws ≠ []) (he : (draws.foldl execTo s).errCode = 0) :
    (draws.foldl execTo s).incr = (draws.foldl execTo s').incr ∧
      (draws.foldl execTo s).result = (draws.foldl execTo s').result := by
  obtain ⟨earlier, last, rfl⟩ := (List.eq_nil_or_concat' draws).resolve_left hne
  simp only [List.foldl_append, List.foldl_cons, List.foldl_nil] at he ⊢
  rw [List.forall_mem_append, List.forall_mem_singleton] at hd
  obtain ⟨hearlier, hlast⟩ := hd
  exact (h.after_foldl_execTo hearlier).outputs_after_execTo hlast he

end DrawsAlike

/-- Two blocks seeded with one derived seed and given the same range draw alike, whatever else they hold. -/
theorem drawsAlike_of_seeded {i j : Instr} {s s' u u' : State} (hsi : isSeeding i = true) (hsj : isSeeding j = true)
    (hs : s.Ready) (hs' : s'.Ready) (hc : checkOf i s = none) (hc' : checkOf j s' = none) (hu : exec i s = .next u)
    (hu' : exec j s' = .next u') (hstate : u.state = u'.state) (lo hi : Word) :
    DrawsAlike { u with minReg := lo, maxReg := hi } { u' with minReg := lo, maxReg := hi } := by
  obtain rfl := Host.Outcome.next.inj ((exec_seeding i s hsi hs hc).symm.trans hu)
  obtain rfl := Host.Outcome.next.inj ((exec_seeding j s' hsj hs' hc').symm.trans hu')
  obtain ⟨hserves, hbusy, herr⟩ := hs
  obtain ⟨hserves', hbusy', herr'⟩ := hs'
  exact ⟨hserves, hserves', hbusy, hbusy', herr.trans herr'.symm, rfl, hstate, rfl, rfl, rfl⟩

/-- One seeding command derives its seed from its own operand alone. -/
theorem derivedSeed_congr (i : Instr) (s s' : State) (hseed : i = .seedInt → s.seed = s'.seed)
    (htime : i = .seedTime → s.timeS = s'.timeS) (hhash : i = .seedHash → s.hacc = s'.hacc) :
    derivedSeed i s = derivedSeed i s' := by
  cases i with
  | seedInt => rw [derivedSeed, derivedSeed, seedValue, seedValue, hseed rfl]
  | seedTime => rw [derivedSeed, derivedSeed, htime rfl]
  | seedHash => rw [derivedSeed, derivedSeed, hhash rfl]
  | _ => rfl

/-- Settles O30: seeding makes the two blocks agree on all that a draw reads, and every draw keeps them so, accepted or
not. -/
theorem reseedEqualsConstruction : Obligations.ReseedEqualsConstruction := by
  intro i j s s' u u' hsi hsj hs hs' hc hc' hu hu'
  refine ⟨fun hij hseed htime hhash => ?_, fun hstate lo hi draws hdraws => ?_⟩
  · subst hij
    obtain rfl := Host.Outcome.next.inj ((exec_seeding i s hsi hs hc).symm.trans hu)
    obtain rfl := Host.Outcome.next.inj ((exec_seeding i s' hsj hs' hc').symm.trans hu')
    exact congrArg (BitVec.ofNat 32) (derivedSeed_congr i s s' hseed htime hhash)
  · have hstart := drawsAlike_of_seeded hsi hsj hs hs' hc hc' hu hu' hstate lo hi
    have hend := hstart.after_foldl_execTo hdraws
    exact ⟨_, _, execAll_eq_foldl draws _, execAll_eq_foldl draws _, hend.state, hend.ctr, hend.errCode,
      hstart.outputs_after_foldl_execTo hdraws⟩

end Sys2Proof.Machine
end

section
namespace Sys2Proof.Machine

/-! ### The hash commands (R147, R148, R151) -/

/-- The accumulator a hash command leaves behind; other commands leave it alone. -/
def nextHacc (i : Instr) (c : Word) : Word :=
  match i with
  | .hashStart => crcInit
  | .hashByte b => crcUpdate c b
  | .nop | .seedInt | .seedTime | .seedHash | .nextInt | .nextByte _ | .save | .restore => c

/-- The whole next state of a hash command: it has no check of its own, and `SEEDED` is not asked for. -/
theorem exec_hash (i : Instr) (s : State) (hi : isHash i = true) (hs : s.Ready) :
    exec i s = .next { s with pend := encode i, hacc := nextHacc i s.hacc } := by
  obtain ⟨h, hb, he⟩ := hs
  cases i with
  | hashStart | hashByte => rw [exec_accepted _ s h hb he rfl, complete, ← hb]; rfl
  | _ => cases hi

/-- Settles O18: the whole next state of `HASH_START`, whose accumulator the final inversion takes to 0. -/
theorem hashStartInitialisesHacc : Obligations.HashStartInitialisesHacc :=
  ⟨encode_hashStart, genericChecks .hashStart, fun s hs =>
    ⟨encode .hashStart, exec_hash .hashStart s rfl hs, crcFinal_allOnes⟩⟩

/-- Settles O29: the next accumulator is a function of the command and of the accumulator. -/
theorem hashCommandsTouchHaccOnly : Obligations.HashCommandsTouchHaccOnly := by
  intro i s s' hi hs hs' hacc
  refine ⟨encode i, nextHacc i s.hacc, exec_hash i s hi hs, ?_⟩
  rw [hacc]
  exact exec_hash i s' hi hs'

end Sys2Proof.Machine
end

section
namespace Sys2Proof.Machine

/-! ### The CRC step as eight folds (R144) -/

/-- `fold` with its condition as R141 writes it. -/
theorem crcFold_eq_ite_and_one (v : Word) :
    crcFold v = if v &&& 1 = 1 then (0xEDB88320 : Word) ^^^ (v >>> 1) else v >>> 1 := by
  have hbit : v.getLsbD 0 = true ↔ v &&& 1 = 1 := by
    rw [← BitVec.toNat_inj, BitVec.toNat_and, BitVec.getLsbD, Nat.testBit_zero, decide_eq_true_iff]
    simp
  simp only [crcFold, crcPoly, hbit]

/-- Folding a word `n` times whose low `n` bits are clear only shifts. -/
theorem crcFolds_of_low_clear (n : Nat) (v : Word) (h : ∀ i < n, v.getLsbD i = false) : crcFolds n v = v >>> n := by
  induction n generalizing v with
  | zero => rfl
  | succ n ih =>
    have hrest : ∀ i < n, (v >>> 1).getLsbD i = false := fun i hi => by
      rw [BitVec.getLsbD_ushiftRight]
      exact h (1 + i) (by omega)
    rw [crcFolds, crcFold_of_even v (h 0 n.succ_pos), ih _ hrest, ← BitVec.shiftRight_add, Nat.add_comm]

/-- A word is its low byte and the rest. -/
theorem xor_low_high (v : Word) : (v.extractLsb' 0 8).setWidth 32 ^^^ ((v >>> 8) <<< 8) = v := by
  ext i hi
  by_cases hlow : i < 8
  · simp [hlow, hi]
  · simp [hlow, hi, Nat.add_sub_cancel' (not_lt.1 hlow)]

/-- Eight folds are a table lookup on the low byte and a shift: `fold` is linear, and on the rest it only shifts. -/
theorem crcFolds_eight (v : Word) : crcFolds 8 v = crcTable (v.extractLsb' 0 8) ^^^ (v >>> 8) := by
  have hhigh : crcFolds 8 ((v >>> 8) <<< 8) = v >>> 8 := by
    rw [crcFolds_of_low_clear 8 _ fun i hi => by simp [hi]]
    ext i hi
    by_cases hshift : 8 + i < 32
    · simp [hshift]
    · simp [hshift, BitVec.getLsbD_of_ge v (8 + i) (not_lt.1 hshift)]
  rw [crcTable, ← hhigh, ← crcFolds_xor, xor_low_high]

/-- A byte lies below what the shift of the CRC step keeps. -/
theorem xor_byte_shiftRight (c : Word) (b : Byte) : (c ^^^ b.setWidth 32) >>> 8 = c >>> 8 := by
  ext i hi
  simp

theorem crcUpdate_eq_crcFolds (c : Word) (b : Byte) : crcUpdate c b = crcFolds 8 (c ^^^ b.setWidth 32) := by
  rw [crcFolds_eight, xor_byte_shiftRight, crcUpdate]

/-- Settles O5: `fold` is `crcFold`, and the table-driven step is eight rounds of it. -/
theorem crcUpdateIsEightFolds : Obligations.CrcUpdateIsEightFolds := by
  intro c b fold
  have hfold : fold = crcFold := funext fun v => (crcFold_eq_ite_and_one v).symm
  rw [hfold]
  exact crcUpdate_eq_crcFolds c b

end Sys2Proof.Machine
end

section
namespace Sys2Proof.Machine

/-! ### `hash32` (R145, R150) -/

theorem crcFeed_eq_foldl (c : Word) (bs : List Byte) : crcFeed c bs = bs.foldl crcUpdate c := by
  induction bs generalizing c with
  | nil => rfl
  | cons b bs ih => exact ih (crcUpdate c b)

/-- One more byte at the end: the final inversion undone, one CRC step, and the inversion again. -/
theorem hash32_concat (bs : List Byte) (b : Byte) :
    hash32 (bs ++ [b]) = crcFinal (crcUpdate (crcFinal (hash32 bs)) b) := by
  rw [hash32, crcFeed_append, hash32, crcFinal_crcFinal]
  rfl

/-- Settles O6: feeding is the left fold of the CRC step. -/
theorem hash32FoldsBytesInOrder : Obligations.Hash32FoldsBytesInOrder :=
  ⟨fun bs => congrArg crcFinal (crcFeed_eq_foldl crcInit bs), crcFinal_allOnes, hash32_concat, by decide +kernel⟩

/-- Settles O7: the three steps of V-H1, then the final inversion. -/
theorem hash32OfAbc : Obligations.Hash32OfAbc := by
  have ha : crcUpdate 0xFFFFFFFF 0x61 = 0x174841BC := by decide
  have hb : crcUpdate 0x174841BC 0x62 = 0x617CB792 := by decide
  have hc : crcUpdate 0x617CB792 0x63 = 0xCADBBE3D := by decide
  refine ⟨?_, ha, hb, hc⟩
  rw [hash32, crcFeed, crcFeed, crcFeed, crcFeed, crcInit, ha, hb, hc]
  rfl

end Sys2Proof.Machine
end

section
namespace Sys2Proof.Machine

/-! ### The decimal string (R146) -/

/-- What holds of the one-digit strings and of a string with one more digit holds of every decimal string. -/
theorem dec_induction {p : Nat → List Byte → Prop} (digit : ∀ n < 10, p n [digitByte n])
    (step : ∀ n, 10 ≤ n → p (n / 10) (dec (n / 10)) → p n (dec (n / 10) ++ [digitByte (n % 10)])) (n : Nat) :
    p n (dec n) := by
  induction n using Nat.strong_induction_on with
  | _ n ih =>
    by_cases hn : n < 10
    · rw [dec_digit n hn]
      exact digit n hn
    · rw [dec_step n (by omega)]
      exact step n (by omega) (ih (n / 10) (by omega))

/-- A digit's byte is its value over 0x30. -/
theorem digitByte_toNat (d : Nat) (hd : d < 10) : (digitByte d).toNat = 0x30 + d :=
  Nat.mod_eq_of_lt (by omega)

theorem mem_dec (n : Nat) : ∀ b ∈ dec n, 0x30 ≤ b.toNat ∧ b.toNat ≤ 0x39 := by
  have hbyte (d : Nat) (hd : d < 10) : 0x30 ≤ (digitByte d).toNat ∧ (digitByte d).toNat ≤ 0x39 := by
    rw [digitByte_toNat d hd]
    omega
  refine dec_induction (p := fun _ bs => ∀ b ∈ bs, 0x30 ≤ b.toNat ∧ b.toNat ≤ 0x39)
    (fun n hn => ?_) (fun n _ ih => ?_) n
  · exact List.forall_mem_singleton.2 (hbyte n hn)
  · exact List.forall_mem_append.2 ⟨ih, List.forall_mem_singleton.2 (hbyte (n % 10) (by omega))⟩

/-- The value of a string of ASCII digits, read from the left. -/
def decimalValue (bs : List Byte) : Nat := bs.foldl (fun acc b => acc * 10 + (b.toNat - 0x30)) 0

theorem decimalValue_concat (bs : List Byte) (d : Nat) (hd : d < 10) :
    decimalValue (bs ++ [digitByte d]) = decimalValue bs * 10 + d := by
  simp [decimalValue, digitByte_toNat d hd]

theorem decimalValue_dec (n : Nat) : decimalValue (dec n) = n := by
  refine dec_induction (p := fun n bs => decimalValue bs = n) (fun n hn => ?_) (fun n _ ih => ?_) n
  · exact (decimalValue_concat [] n hn).trans (Nat.zero_add n)
  · rw [decimalValue_concat _ _ (by omega), ih]
    omega

theorem length_dec_pos (n : Nat) : 1 ≤ (dec n).length :=
  dec_induction (p := fun _ bs => 1 ≤ bs.length) (by simp) (by simp) n

theorem head?_dec (n : Nat) (hn : n ≠ 0) : (dec n).head? ≠ some 0x30 := by
  refine dec_induction (p := fun n bs => n ≠ 0 → bs.head? ≠ some 0x30)
    (fun n hlt hn h => ?_) (fun n hle ih _ => ?_) n hn
  · have := congrArg BitVec.toNat (Option.some.inj h)
    rw [digitByte_toNat n hlt] at this
    exact hn (Nat.add_left_cancel this)
  · rw [List.head?_append_of_ne_nil _ (List.ne_nil_of_length_pos (length_dec_pos _))]
    exact ih (by omega)

/-- A number below `10 ^ k` has at most `k` digits. -/
theorem length_dec_le (n k : Nat) (hk : 1 ≤ k) (hn : n < 10 ^ k) : (dec n).length ≤ k := by
  refine dec_induction (p := fun n bs => ∀ k, 1 ≤ k → n < 10 ^ k → bs.length ≤ k)
    (fun _ _ _ hk _ => hk) (fun n hle ih k hk hn => ?_) n k hk hn
  obtain ⟨j, rfl⟩ := Nat.exists_eq_add_of_le' hk
  have hj : 1 ≤ j := Nat.one_le_iff_ne_zero.2 fun h => by subst h; omega
  rw [List.length_append, List.length_singleton]
  exact Nat.succ_le_succ (ih j hj (by omega))

/-- Settles O8: each part by induction over the digits; `2 ^ 64 ≤ 10 ^ 20` and `2 ^ 32 ≤ 10 ^ 10` give the bounds. -/
theorem decIsTheDecimalString : Obligations.DecIsTheDecimalString :=
  ⟨dec_digit 0 (by decide), fun n =>
    ⟨mem_dec n, decimalValue_dec n, head?_dec n, length_dec_pos n,
      fun hn => length_dec_le n 20 (by decide) (hn.trans (by decide)),
      fun hn => length_dec_le n 10 (by decide) (hn.trans (by decide))⟩⟩

end Sys2Proof.Machine
end

section
namespace Sys2Proof.Machine

/-! ### Rounding does not pass a multiple of its unit (R13) -/

/-- The unit of a number below `2 ^ (u + 53)` is at most `2 ^ u`. -/
theorem bitLength_sub_le {a u : Nat} (ha : a < 2 ^ (u + 53)) : bitLength a - 53 ≤ u := by
  by_cases h0 : a = 0
  · subst h0
    exact Nat.zero_le u
  · have hlog : Nat.log2 a < u + 53 := (Nat.log2_lt h0).2 ha
    rw [bitLength]
    omega

theorem roundQuotient_le {a e k : Nat} (h : a ≤ k * 2 ^ e) : roundQuotient a e ≤ k := by
  obtain ⟨hq, -⟩ | ⟨hq, hr⟩ := roundQuotient_cases a e
  · rw [hq]
    exact Nat.div_le_of_le_mul (Nat.mul_comm k _ ▸ h)
  · have hne : a ≠ k * 2 ^ e := by
      rintro rfl
      rw [Nat.mul_mod_left] at hr
      exact Nat.not_le.2 (Nat.two_pow_pos _) hr
    rw [hq, Nat.succ_le_iff, Nat.div_lt_iff_lt_mul (Nat.two_pow_pos e)]
    exact lt_of_le_of_ne h hne

theorem le_roundQuotient {a e k : Nat} (h : k * 2 ^ e ≤ a) : k ≤ roundQuotient a e := by
  have hfloor : k ≤ a / 2 ^ e := (Nat.le_div_iff_mul_le (Nat.two_pow_pos e)).2 h
  obtain ⟨hq, -⟩ | ⟨hq, -⟩ := roundQuotient_cases a e <;> omega

theorem rne53_natCast (a : Nat) :
    rne53 a = (if a < 2 ^ 53 then a else roundQuotient a (bitLength a - 53) * 2 ^ (bitLength a - 53) : Nat) := by
  unfold rne53
  simp only [Int.natAbs_natCast]
  split
  · rfl
  · rw [Int.sign_eq_one_of_pos (by omega), one_mul]

/-- Rounding is symmetric about 0. -/
theorem rne53_neg (n : Int) : rne53 (-n) = -rne53 n := by
  unfold rne53
  simp only [Int.natAbs_neg, Int.sign_neg, Int.neg_mul]
  split <;> rfl

/-- A multiple of `2 ^ u` on either side of a number below `2 ^ (u + 53)` stays on that side of the rounded number. -/
theorem rne53_natCast_bounds {u a m : Nat} (ha : a < 2 ^ (u + 53)) (hm : 2 ^ u ∣ m) :
    (a ≤ m → rne53 a ≤ m) ∧ (m ≤ a → m ≤ rne53 a) := by
  rw [rne53_natCast, Int.ofNat_le, Int.ofNat_le]
  split
  · exact ⟨id, id⟩
  · obtain ⟨k, rfl⟩ := (Nat.pow_dvd_pow 2 (bitLength_sub_le ha)).trans hm
    rw [Nat.mul_comm _ k]
    exact ⟨fun h => Nat.mul_le_mul_right _ (roundQuotient_le h), fun h => Nat.mul_le_mul_right _ (le_roundQuotient h)⟩

/-- Rounding up does not pass a multiple of `2 ^ u`. -/
theorem rne53_le {u : Nat} {n m : Int} (hn : n.natAbs < 2 ^ (u + 53)) (hm : 2 ^ u ∣ m.natAbs) (h : n ≤ m) :
    rne53 n ≤ m := by
  obtain ⟨a, rfl | rfl⟩ := n.eq_nat_or_neg
  · lift m to Nat using le_trans (Int.natCast_nonneg a) h
    exact (rne53_natCast_bounds hn hm).1 (Int.ofNat_le.1 h)
  · rw [Int.natAbs_neg] at hn
    rw [rne53_neg]
    obtain ⟨j, rfl | rfl⟩ := m.eq_nat_or_neg
    · have hzero : (0 : Nat) ≤ rne53 a := (rne53_natCast_bounds hn (Nat.dvd_zero _)).2 (Nat.zero_le a)
      omega
    · rw [Int.natAbs_neg] at hm
      exact Int.neg_le_neg ((rne53_natCast_bounds hn hm).2 (by omega))

/-- Rounding down does not pass a multiple of `2 ^ u`. -/
theorem le_rne53 {u : Nat} {n m : Int} (hn : n.natAbs < 2 ^ (u + 53)) (hm : 2 ^ u ∣ m.natAbs) (h : m ≤ n) :
    m ≤ rne53 n := by
  have hneg := rne53_le (u := u) (n := -n) (m := -m) (n.natAbs_neg ▸ hn) (m.natAbs_neg ▸ hm) (Int.neg_le_neg h)
  rw [rne53_neg] at hneg
  exact Int.neg_le_neg_iff.1 hneg

end Sys2Proof.Machine
end

section
namespace Sys2Proof.Machine

/-! ### The range mapping (R164, R165, R166) -/

/-- The product that the mapping rounds first (R164, at most `2^32 - 1` times the range's size). -/
theorem product_bounds {s : Nat} {r : Int} (hs : s < 2 ^ 32) (hr : 0 ≤ r) :
    0 ≤ s * r ∧ s * r ≤ (2 ^ 32 - 1) * r :=
  ⟨Int.mul_nonneg (Int.natCast_nonneg s) hr, Int.mul_le_mul_of_nonneg_right (by omega) hr⟩

theorem mapRange_eq (s : Nat) (lo hi : Int) :
    mapRange s lo hi = rne53 (rne53 (s * (hi - lo + 1)) + lo * 2 ^ 32) / 2 ^ 32 := rfl

/-- Neither rounding of the mapping passes the multiple of 2^32 at an end of the range (R165). -/
theorem mapRange_bounds {s : Nat} {lo hi : Int} (hs : s < 2 ^ 32) (hlo : -(2 ^ 31) ≤ lo) (hle : lo ≤ hi)
    (hhi : hi < 2 ^ 31) : lo ≤ mapRange s lo hi ∧ mapRange s lo hi ≤ hi + 1 := by
  rw [mapRange_eq]
  obtain ⟨hp, hp'⟩ := product_bounds (r := hi - lo + 1) hs (by omega)
  generalize s * (hi - lo + 1) = p at hp hp'
  have hn1 : 0 ≤ rne53 p := le_rne53 (u := 32) (by omega) (by omega) hp
  have hn1' : rne53 p ≤ (hi - lo + 1) * 2 ^ 32 := rne53_le (u := 32) (by omega) (by omega) (by omega)
  generalize rne53 p = n1 at hn1 hn1'
  have hn2 : lo * 2 ^ 32 ≤ rne53 (n1 + lo * 2 ^ 32) := le_rne53 (u := 32) (by omega) (by omega) (by omega)
  have hn2' : rne53 (n1 + lo * 2 ^ 32) ≤ (hi + 1) * 2 ^ 32 :=
    rne53_le (u := 32) (by omega) (by omega) (by omega)
  constructor <;> omega

/-- In the exact band neither rounding changes its number (R166). -/
theorem mapRange_exact {s : Nat} {lo hi : Int} (hs : s < 2 ^ 32) (hlo : -(2 ^ 20) ≤ lo) (hle : lo ≤ hi)
    (hhi : hi < 2 ^ 20) : mapRange s lo hi = lo + s * (hi - lo + 1) / 2 ^ 32 := by
  rw [mapRange_eq]
  obtain ⟨hp, hp'⟩ := product_bounds (r := hi - lo + 1) hs (by omega)
  generalize s * (hi - lo + 1) = p at hp hp'
  have hn1 : rne53 p = p := rne53_small p (by omega)
  have hn2 : rne53 (p + lo * 2 ^ 32) = p + lo * 2 ^ 32 := rne53_small _ (by omega)
  rw [hn1, hn2]
  omega

/-- Both ranges of `NEXT_BYTE` lie in the exact band, with 256 and 95 values (R169). -/
theorem mapRange_byte {s : Nat} (hs : s < 2 ^ 32) (r : Bool) :
    mapRange s (byteLo r) (byteHi r) = (if r then 32 + s * 95 / 2 ^ 32 else s / 2 ^ 24 : Nat) := by
  cases r with
  | false =>
    have hexact : mapRange s 0 255 = 0 + s * (255 - 0 + 1) / 2 ^ 32 :=
      mapRange_exact hs (by decide) (by decide) (by decide)
    change mapRange s 0 255 = (s / 2 ^ 24 : Nat)
    omega
  | true =>
    have hexact : mapRange s 32 126 = 32 + s * (126 - 32 + 1) / 2 ^ 32 :=
      mapRange_exact hs (by decide) (by decide) (by decide)
    change mapRange s 32 126 = (32 + s * 95 / 2 ^ 32 : Nat)
    omega

/-- Settles O11: the two bounds from `mapRange_bounds`; the two outliers are evaluated. -/
theorem mapRangeStaysInRange : Obligations.MapRangeStaysInRange :=
  ⟨fun _ _ _ hs hlo hle hhi => mapRange_bounds hs hlo hle hhi, by decide, by decide⟩

end Sys2Proof.Machine
end

section
namespace Sys2Proof.Machine

/-! ### The checks of the draw commands (R160) -/

theorem checkSeeded_of_seeded {s : State} (h : s.seeded = true) : checkSeeded s = none := if_pos h

theorem checkSeeded_of_unseeded {s : State} (h : s.seeded = false) : checkSeeded s = some .unseeded :=
  if_neg (Bool.eq_false_iff.1 h)

theorem checkRange_of_le {s : State} (h : s.minReg.toInt ≤ s.maxReg.toInt) : checkRange s = none := if_pos h

theorem checkRange_of_lt {s : State} (h : s.maxReg.toInt < s.minReg.toInt) : checkRange s = some .range :=
  if_neg (not_le.2 h)

theorem checkCounter_of_lt {s : State} (h : s.ctr.toNat < 2 ^ 64 - 1) : checkCounter s = none := if_pos h

theorem checkCounter_of_end {s : State} (h : s.ctr.toNat = 2 ^ 64 - 1) : checkCounter s = some .ctrOvf :=
  if_neg (not_lt.2 h.ge)

theorem checkOf_nextInt (s : State) :
    checkOf .nextInt s = (checkSeeded s <|> checkRange s <|> checkCounter s) := rfl

theorem checkOf_nextByte (r : Bool) (s : State) :
    checkOf (.nextByte r) s = (checkSeeded s <|> checkCounter s) := rfl

/-- A block that takes commands answers a failing check with its error record alone. -/
theorem exec_rejected_of_ready {i : Instr} {s : State} {e : ErrorCode} (hs : s.Ready) (hc : checkOf i s = some e) :
    exec i s = .next { s with errCode := e.bits, errInfo := encode i } := by
  obtain ⟨h, hb, he⟩ := hs
  exact exec_rejected i s e h hb he hc

/-! ### The draw commands (R160, R162, R167, R169, R173) -/

theorem lcgNext_toNat (state c : Word) : (lcgNext state c).toNat = (1664525 * state.toNat + c.toNat) % 2 ^ 32 :=
  BitVec.toNat_ofNat _ _

/-- The whole next state of an accepted draw. -/
theorem exec_draw (d : Instr) (s : State) (hd : isDraw d = true) (hs : s.Ready) (hc : checkOf d s = none) :
    exec d s = .next { drawWith (drawRange d s).1 (drawRange d s).2 s with pend := encode d } := by
  obtain ⟨h, hb, he⟩ := hs
  cases d with
  | nextInt | nextByte => rw [exec_accepted _ s h hb he hc, complete, ← hb]; rfl
  | _ => cases hd

/-- The next state of an accepted draw with the generator's update written out (R160, steps 1 to 4). -/
theorem exec_draw_update (d : Instr) (s : State) (hd : isDraw d = true) (hs : s.Ready) (hc : checkOf d s = none) :
    let c := hash32 (dec s.ctr.toNat ++ dec s.state.toNat ++ dec s.ctr.toNat)
    let new := (1664525 * s.state.toNat + c.toNat) % 2 ^ 32
    exec d s = .next { s with
      pend := encode d
      state := BitVec.ofNat 32 new
      ctr := BitVec.ofNat 64 (s.ctr.toNat + 1)
      incr := c
      result := BitVec.ofInt 64 (mapRange new (drawRange d s).1 (drawRange d s).2) } := by
  intro c new
  have hnew : (lcgNext s.state (drawIncrement s.ctr s.state)).toNat = new := lcgNext_toNat s.state c
  rw [exec_draw d s hd hs hc, drawWith, hnew, ← hnew, BitVec.ofNat_toNat, BitVec.setWidth_eq]
  rfl

/-- Settles O20: each outcome is that of `NEXT_INT`'s check on the three conditions, in their order. -/
theorem nextIntDraws : Obligations.NextIntDraws := by
  refine ⟨encode_nextInt, genericChecks .nextInt, fun s hs => ⟨fun hunseeded => ?_, fun hseeded hlt => ?_,
    fun hseeded hle hend => ?_, fun hseeded hle hctr => ?_⟩⟩
  · have hc : checkOf .nextInt s = some .unseeded := by
      rw [checkOf_nextInt, checkSeeded_of_unseeded hunseeded]; rfl
    exact exec_rejected_of_ready hs hc
  · have hc : checkOf .nextInt s = some .range := by
      rw [checkOf_nextInt, checkSeeded_of_seeded hseeded, checkRange_of_lt hlt]; rfl
    exact exec_rejected_of_ready hs hc
  · have hc : checkOf .nextInt s = some .ctrOvf := by
      rw [checkOf_nextInt, checkSeeded_of_seeded hseeded, checkRange_of_le hle, checkCounter_of_end hend]; rfl
    exact exec_rejected_of_ready hs hc
  · have hc : checkOf .nextInt s = none := by
      rw [checkOf_nextInt, checkSeeded_of_seeded hseeded, checkRange_of_le hle, checkCounter_of_lt hctr]; rfl
    exact ⟨encode .nextInt, exec_draw_update .nextInt s rfl hs hc⟩

/-- Settles O21: the checks are `NEXT_INT`'s without the range, and the mapping of the draw is exact. -/
theorem nextByteDrawsOneByte : Obligations.NextByteDrawsOneByte := by
  refine ⟨encode_nextByte_full, encode_nextByte_readable, fun r => ⟨genericChecks (.nextByte r), fun s hs =>
    ⟨fun hunseeded => ?_, fun hseeded hend => ?_, fun hseeded hctr => ?_⟩⟩⟩
  · have hc : checkOf (.nextByte r) s = some .unseeded := by
      rw [checkOf_nextByte, checkSeeded_of_unseeded hunseeded]; rfl
    exact exec_rejected_of_ready hs hc
  · have hc : checkOf (.nextByte r) s = some .ctrOvf := by
      rw [checkOf_nextByte, checkSeeded_of_seeded hseeded, checkCounter_of_end hend]; rfl
    exact exec_rejected_of_ready hs hc
  · intro c new
    have hc : checkOf (.nextByte r) s = none := by
      rw [checkOf_nextByte, checkSeeded_of_seeded hseeded, checkCounter_of_lt hctr]; rfl
    have hresult : BitVec.ofNat 64 (if r then 32 + new * 95 / 2 ^ 32 else new / 2 ^ 24) =
        BitVec.ofInt 64 (mapRange new (byteLo r) (byteHi r)) := by
      rw [mapRange_byte (Nat.mod_lt _ (by decide)), BitVec.ofInt_natCast]
    rw [hresult]
    exact ⟨encode (.nextByte r), exec_draw_update (.nextByte r) s rfl hs hc⟩

/-- Settles O28: whatever its range, a draw's new `STATE`, `CTR` and `INCR` are `drawWith`'s, which reads `STATE` and `CTR`. -/
theorem stateSequenceIgnoresRanges : Obligations.StateSequenceIgnoresRanges := by
  intro i j s s' t t' hi hj hs hs' hc hc' hstate hctr ht ht'
  obtain rfl := Host.Outcome.next.inj ((exec_draw i s hi hs hc).symm.trans ht)
  obtain rfl := Host.Outcome.next.inj ((exec_draw j s' hj hs' hc').symm.trans ht')
  simp [hstate, hctr]

end Sys2Proof.Machine
end

section
namespace Sys2Proof.Machine

/-! ### The snapshot commands and `NOP` (R190, R191, R194) -/

/-- An accepted command on a block that takes commands: its completion puts `BUSY` back to where it was. -/
theorem exec_of_check (i : Instr) (s : State) (hs : s.Ready) (hc : checkOf i s = none) :
    exec i s = .next { effectOf i (accept i s) with busy := s.busy } := by
  obtain ⟨h, hb, he⟩ := hs
  rw [exec_accepted i s h hb he hc, hb]
  rfl

/-- The whole next state of `SAVE` on a seeded block. -/
theorem exec_save (s : State) (hs : s.Ready) (hseeded : s.seeded = true) :
    exec .save s = .next { s with pend := encode .save, saved := s.state, savedValid := true } :=
  exec_of_check .save s hs (checkSeeded_of_seeded hseeded)

/-- The whole next state of `RESTORE` on a seeded block, with or without a snapshot. -/
theorem exec_restore (s : State) (hs : s.Ready) (hseeded : s.seeded = true) :
    exec .restore s =
      .next { s with pend := encode .restore, state := if s.savedValid then s.saved else s.state } :=
  exec_of_check .restore s hs (checkSeeded_of_seeded hseeded)

/-- Settles O14: `NOP` has no check of its own, and its effect is the identity. -/
theorem nopHasNoEffect : Obligations.NopHasNoEffect :=
  ⟨encode_nop, genericChecks .nop, fun s hs =>
    ⟨⟨encode .nop, exec_of_check .nop s hs rfl⟩, acceptOnly_ready .nop s hs rfl⟩⟩

/-- Settles O22: the two outcomes of the check `SEEDED = 1`. -/
theorem saveTakesASnapshot : Obligations.SaveTakesASnapshot := by
  refine ⟨encode_save, genericChecks .save, fun s hs => ⟨fun hunseeded => ?_, fun hseeded => ?_⟩⟩
  · exact exec_rejected_of_ready (i := .save) hs (checkSeeded_of_unseeded hunseeded)
  · exact ⟨encode .save, exec_save s hs hseeded⟩

/-- Settles O23: the two outcomes of the check `SEEDED = 1`, and a seeded block with and without a snapshot. -/
theorem restoreBringsBackTheSnapshot : Obligations.RestoreBringsBackTheSnapshot := by
  refine ⟨encode_restore, genericChecks .restore, fun s hs =>
    ⟨fun hunseeded => ?_, fun hseeded hvalid => ⟨encode .restore, ?_⟩, fun hseeded hvalid => ⟨encode .restore, ?_⟩⟩⟩
  · exact exec_rejected_of_ready (i := .restore) hs (checkSeeded_of_unseeded hunseeded)
  · rw [exec_restore s hs hseeded, if_pos hvalid]
  · rw [exec_restore s hs hseeded, if_neg (Bool.eq_false_iff.1 hvalid)]

/-! ### Draws between `SAVE` and `RESTORE` (R161, R193) -/

/-- A draw is accepted by a seeded block whose counter has room, `NEXT_INT` where also `MIN` is at most `MAX` (R160). -/
theorem checkOf_draw {d : Instr} {s : State} (hd : isDraw d = true) (hseeded : s.seeded = true)
    (hrange : d = .nextInt → s.minReg.toInt ≤ s.maxReg.toInt) (hctr : s.ctr.toNat < 2 ^ 64 - 1) :
    checkOf d s = none := by
  cases d with
  | nextInt =>
    rw [checkOf_nextInt, checkSeeded_of_seeded hseeded, checkRange_of_le (hrange rfl), checkCounter_of_lt hctr]; rfl
  | nextByte r => rw [checkOf_nextByte, checkSeeded_of_seeded hseeded, checkCounter_of_lt hctr]; rfl
  | _ => cases hd

/-- Draws that the counter has room for are all accepted: each adds 1 to it, and the snapshot stays. -/
theorem foldl_execTo_draws {draws : List Instr} {s : State} (hs : s.Ready) (hseeded : s.seeded = true)
    (hd : ∀ d ∈ draws, isDraw d = true) (hrange : .nextInt ∈ draws → s.minReg.toInt ≤ s.maxReg.toInt)
    (hroom : s.ctr.toNat + draws.length < 2 ^ 64) :
    let t := draws.foldl execTo s
    t.Ready ∧ t.seeded = true ∧ t.saved = s.saved ∧ t.savedValid = s.savedValid ∧
      t.ctr.toNat = s.ctr.toNat + draws.length := by
  induction draws generalizing s with
  | nil => exact ⟨hs, hseeded, rfl, rfl, rfl⟩
  | cons d draws ih =>
    rw [List.forall_mem_cons] at hd
    obtain ⟨hfirst, hrest⟩ := hd
    rw [List.length_cons] at hroom ⊢
    have hc : checkOf d s = none :=
      checkOf_draw hfirst hseeded (fun h => hrange (h ▸ List.mem_cons_self)) (by omega)
    have hready : (execTo s d).Ready := execTo_ready_of_check d s hs hc
    have hctr : (BitVec.ofNat 64 (s.ctr.toNat + 1)).toNat = s.ctr.toNat + 1 := Nat.mod_eq_of_lt (by omega)
    rw [List.foldl_cons]
    rw [execTo_of_exec (exec_draw d s hfirst hs hc)] at hready ⊢
    obtain ⟨hend, hseeded', hsaved, hvalid, hcount⟩ :=
      ih hready hseeded hrest (fun h => hrange (List.mem_cons_of_mem d h)) (by simp only [drawWith_ctr, hctr]; omega)
    refine ⟨hend, hseeded', hsaved, hvalid, hcount.trans ?_⟩
    simp only [drawWith_ctr, hctr]
    omega

theorem dec_injective : Function.Injective dec := Function.LeftInverse.injective decimalValue_dec

/-- From one `STATE`, equal messages come from equal counters: the two copies of the counter take all of the length but
`STATE`'s, so that the last copies are tails of one length. -/
theorem ctr_eq_of_drawMessage_eq {c c' : DWord} {state : Word} (h : drawMessage c state = drawMessage c' state) :
    c = c' := by
  have hlength := congrArg List.length h
  simp only [drawMessage, List.length_append] at hlength
  exact BitVec.eq_of_toNat_eq (dec_injective (List.append_inj_right' h (by omega)))

/-- Settles O31: the draws keep the snapshot that `SAVE` took and count in `CTR`; `RESTORE` brings back `STATE` alone,
and from one `STATE` different counters give different messages. -/
theorem saveRestoreRoundtrip : Obligations.SaveRestoreRoundtrip := by
  intro s draws hs hseeded hd hrange hroom
  have hsave := execTo_of_exec (exec_save s hs hseeded)
  have hsaved : (execTo s .save).Ready := execTo_ready_of_check .save s hs (checkSeeded_of_seeded hseeded)
  refine ⟨_, execAll_eq_foldl _ s, ?_⟩
  rw [List.foldl_cons, List.foldl_append, List.foldl_cons, List.foldl_nil]
  rw [hsave] at hsaved ⊢
  obtain ⟨hready, hseeded', hsaved', hvalid, hctr⟩ := foldl_execTo_draws hsaved hseeded hd hrange hroom
  rw [execTo_of_exec (exec_restore _ hready hseeded'), if_pos hvalid]
  obtain ⟨-, -, herr⟩ := hready
  refine ⟨herr, hsaved', hsaved', hvalid, hctr, fun hne hmessage => ?_⟩
  have hsame := congrArg BitVec.toNat (ctr_eq_of_drawMessage_eq (hsaved' ▸ hmessage))
  have hpos := List.length_pos_of_ne_nil hne
  exact absurd (hctr.symm.trans hsame) (by simp only; omega)

end Sys2Proof.Machine
end

section
namespace Sys2Proof.Machine

/-! ### What a write does, register word by register word (R61, R66) -/

/-- An aligned offset is the offset of the register word it reaches (R61). -/
theorem offset_ofOffset (off : Offset) (h : off.toNat % 4 = 0) : (RegName.ofOffset off).offset = off := by
  revert off
  decide

theorem offset_injective : Function.Injective RegName.offset := Function.LeftInverse.injective ofOffset_offset

/-- `CMD` and the four operand words: the register words a write reaches (R66). -/
def writableWords : List RegName := [.cmd, .seedLo, .seedHi, .min, .max]

theorem offset_mem_writable_iff (r : RegName) :
    r.offset ∈ [(0x00 : Offset), 0x08, 0x0C, 0x10, 0x14] ↔ r ∈ writableWords :=
  List.mem_map_of_injective (l := writableWords) offset_injective

theorem offset_eq_zero_iff (r : RegName) : r.offset = 0x00 ↔ r = .cmd :=
  offset_injective.eq_iff (b := .cmd)

/-- The operand register a word belongs to, set to the written value; no other word has one. -/
def setOperand (r : RegName) (v : Word) (s : State) : State :=
  match r with
  | .seedLo => { s with seed := setLoHalf v s.seed }
  | .seedHi => { s with seed := setHiHalf v s.seed }
  | .min => { s with minReg := v }
  | .max => { s with maxReg := v }
  | .cmd | .status | .resultLo | .resultHi | .state | .saved | .ctrLo | .ctrHi | .incr | .hash | .errInfo
  | .reserved => s

@[simp] theorem setOperand_errCode (r : RegName) (v : Word) (s : State) : (setOperand r v s).errCode = s.errCode := by
  cases r <;> rfl

@[simp] theorem setOperand_errInfo (r : RegName) (v : Word) (s : State) : (setOperand r v s).errInfo = s.errInfo := by
  cases r <;> rfl

/-- A write to a word other than `CMD` is ignored, or sets its operand register behind the gate. -/
theorem regWrite_cases (engine : Bool) (r : RegName) (v : Word) (s : State) (hr : r ≠ .cmd) :
    (r ∉ writableWords ∧ regWrite engine r v s = .next s) ∨
    (r ∈ writableWords ∧ regWrite engine r v s = .next (whenWritable r.offset s (setOperand r v))) := by
  cases r with
  | cmd => exact absurd rfl hr
  | seedLo | seedHi | min | max => exact .inr ⟨by decide, rfl⟩
  | _ => exact .inl ⟨by decide, rfl⟩

/-- An operand write on a block that serves with no command pending sets its register, error or not (R66, R215). -/
theorem busWrite_operand (engine : Bool) (r : RegName) (v : Word) (s : State) (h : s.serves = true)
    (hb : s.busy = false) (hr : r ∈ writableWords) (hcmd : r ≠ .cmd) :
    busWrite engine r.offset 32 v s = .next (setOperand r v s) := by
  obtain ⟨hn, -⟩ | ⟨-, hw⟩ := regWrite_cases engine r v s hcmd
  · exact absurd hr hn
  · rw [busWrite_offset, hw, whenWritable_open _ s _ h hb]

theorem loHalf_setLoHalf (v : Word) (d : DWord) : loHalf (setLoHalf v d) = v :=
  BitVec.extractLsb'_append_eq_right

theorem hiHalf_setHiHalf (v : Word) (d : DWord) : hiHalf (setHiHalf v d) = v :=
  BitVec.extractLsb'_append_eq_left

/-! ### A recorded error stays (R214, R215) -/

/-- While an error is recorded the gate of `CMD` lets nothing through, whatever else holds of the block. -/
theorem whenCommandable_of_error (s : State) (k : State → State) (he : s.errCode ≠ 0) : whenCommandable s k = s := by
  obtain ⟨-, hk⟩ | ⟨-, -, hk⟩ | ⟨-, -, -, hk⟩ | ⟨-, -, h0, -⟩ := whenCommandable_cases s k
  · exact hk
  · rw [hk, raiseError_later s .busy 0 he]
  · exact hk
  · exact absurd h0 he

/-- A write to `CMD` while an error is recorded changes nothing, whatever the word and whoever's turn it is. -/
theorem writeCommand_errored (engine : Bool) (w : Word) (s : State) (he : s.errCode ≠ 0) :
    writeCommand engine w s = .next s := by
  cases hd : decode w with
  | error e => rw [writeCommand_error engine w e s hd, presentIllegal, whenCommandable_of_error s _ he]
  | ok i =>
    have hp (k : State → State) : present i (checkOf i) k s = s := whenCommandable_of_error s _ he
    rw [writeCommand_ok engine w i s hd, exec_eq_present, acceptOnly, hp, hp, ite_self]

/-- The two states hold the same error record. -/
def SameErrorRecord (s t : State) : Prop := t.errCode = s.errCode ∧ t.errInfo = s.errInfo

/-- An operand write behind the gate keeps the error record, unless it records the first error (R67). -/
theorem whenWritable_setOperand_sameErrorRecord (r : RegName) (v : Word) (s : State)
    (h : s.busy = true → s.errCode ≠ 0) : SameErrorRecord s (whenWritable r.offset s (setOperand r v)) := by
  obtain ⟨-, hk⟩ | ⟨-, hb, hk⟩ | ⟨-, -, hk⟩ := whenWritable_cases r.offset s (setOperand r v) <;> rw [hk]
  · exact ⟨rfl, rfl⟩
  · rw [raiseError_later s .busy _ (h hb)]
    exact ⟨rfl, rfl⟩
  · exact ⟨setOperand_errCode r v s, setOperand_errInfo r v s⟩

/-- A write other than of `CMD` keeps the error record, unless it reaches an operand register while a command is pending
and no error is recorded. -/
theorem regWrite_sameErrorRecord (engine : Bool) (r : RegName) (v : Word) (s : State) (hr : r ≠ .cmd)
    (h : r ∈ writableWords → s.busy = true → s.errCode ≠ 0) :
    ∃ t, regWrite engine r v s = .next t ∧ SameErrorRecord s t := by
  obtain ⟨-, hw⟩ | ⟨hmem, hw⟩ := regWrite_cases engine r v s hr
  · exact ⟨s, hw, rfl, rfl⟩
  · exact ⟨_, hw, whenWritable_setOperand_sameErrorRecord r v s (h hmem)⟩

/-- No bus write changes a recorded error. -/
theorem busWrite_errored_sameErrorRecord (engine : Bool) (off : Offset) (width : Nat) (v : Word) (s : State)
    (he : s.errCode ≠ 0) : ∃ t, busWrite engine off width v s = .next t ∧ SameErrorRecord s t := by
  cases hl : legalAccess off width with
  | false => exact ⟨_, busWrite_illegal engine off width v s hl, rfl, rfl⟩
  | true =>
    rw [busWrite, if_pos hl]
    by_cases hr : RegName.ofOffset off = .cmd
    · rw [hr]
      exact ⟨s, writeCommand_errored engine v s he, rfl, rfl⟩
    · exact regWrite_sameErrorRecord engine _ v s hr fun _ _ => he

theorem busRead_sameErrorRecord (off : Offset) (width : Nat) (s : State) : SameErrorRecord s (busRead off width s) := by
  unfold busRead
  split <;> exact ⟨rfl, rfl⟩

/-- No act of the host but an event on `RST` that resets the block, or a loss of power, changes a recorded error. -/
theorem hostDoes_errored_sameErrorRecord (engine : Bool) (a : HostAct) (s : State) (he : s.errCode ≠ 0)
    (hreset : a.isReset = false) (hpower : a ≠ .powerCycle) :
    ∃ t, hostDoes engine a s = .next t ∧ SameErrorRecord s t := by
  cases a with
  | read off width => exact ⟨_, rfl, busRead_sameErrorRecord off width s⟩
  | write off width v => exact busWrite_errored_sameErrorRecord engine off width v s he
  | wait | releaseRst => exact ⟨_, rfl, rfl, rfl⟩
  | reset | assertRst => cases hreset
  | powerCycle => exact absurd rfl hpower

theorem completePending_sameErrorRecord {s t : State} (h : completePending s = .next t) : SameErrorRecord s t := by
  cases hd : decode s.pend with
  | error e => simp [completePending, hd] at h
  | ok i =>
    rw [completePending_ok s i hd] at h
    cases h
    exact ⟨effectOf_errCode i s, effectOf_errInfo i s⟩

/-- What a step that answers a next state can do: complete the pending command, nothing but take its turn, or the act
`actNow`. -/
theorem step_next_cases {s t : State} (h : step s = .next t) :
    completePending (takeTurn s) = .next t ∨ t = takeTurn s ∨
      ∃ a rest, s.actNow = some a ∧ hostDoes (engineActs s) a { takeTurn s with host := rest } = .next t := by
  obtain ⟨-, hs⟩ | ⟨hc, hs⟩ := step_cases s <;> rw [hs] at h
  · exact .inl h
  · have hhost : (takeTurn s).host = s.host := takeTurn_host s
    cases hp : s.host with
    | nil =>
      rw [hostMoves_nil _ _ (hhost.trans hp)] at h
      exact .inr (.inl (Host.Outcome.next.inj h).symm)
    | cons a rest =>
      rw [hostMoves_cons _ _ a rest (hhost.trans hp)] at h
      exact .inr (.inr ⟨a, rest, by simp [State.actNow, hc, hp], h⟩)

/-- No step but one of the host's reset or of a loss of power changes a recorded error. -/
theorem step_errored_sameErrorRecord {s t : State} (h : step s = .next t) (he : s.errCode ≠ 0)
    (hpower : s.actNow ≠ some .powerCycle) (hreset : s.resetsNext = false) : SameErrorRecord s t := by
  have hcode : (takeTurn s).errCode = s.errCode := takeTurn_errCode s
  have hinfo : (takeTurn s).errInfo = s.errInfo := takeTurn_errInfo s
  obtain hdone | rfl | ⟨a, rest, hact, hdoes⟩ := step_next_cases h
  · obtain ⟨hcode', hinfo'⟩ := completePending_sameErrorRecord hdone
    exact ⟨hcode'.trans hcode, hinfo'.trans hinfo⟩
  · exact ⟨hcode, hinfo⟩
  · have hne : a.isReset = false := by simpa [State.resetsNext, hact] using hreset
    obtain ⟨u, hu, hcode', hinfo'⟩ := hostDoes_errored_sameErrorRecord (engineActs s) a
      { takeTurn s with host := rest } (hcode.trans_ne he) hne fun hp => hpower (hp ▸ hact)
    obtain rfl := Host.Outcome.next.inj (hu.symm.trans hdoes)
    exact ⟨hcode'.trans hcode, hinfo'.trans hinfo⟩

/-- A read of a block that serves with no command pending returns the word's content and draws no free value. -/
theorem busRead_idle (off : Offset) (s : State) (h : s.serves = true) (hb : s.busy = false) (ha : off.toNat % 4 = 0) :
    busRead off 32 s = { s with reads := regContent (RegName.ofOffset off) s :: s.reads } := by
  obtain ⟨-, hlost⟩ := (serves_iff s).1 h
  have hfree : readsFree s = false := by simp [readsFree, hb, hlost]
  rw [busRead, if_pos ((legalAccess_iff off 32).2 ⟨ha, rfl⟩), readWord_idle _ s h hb, hfree]
  rfl

/-- Settles O44: no host act or completion touches a recorded error, the gate of `CMD` is shut while one is recorded, and
those of the operand words and the reads do not ask for it. -/
theorem errorsAreSticky : Obligations.ErrorsAreSticky := by
  refine ⟨fun s t h hpower he hreset => step_errored_sameErrorRecord h he hpower hreset, fun engine v s h hb he => ?_⟩
  have operand (r : RegName) (hr : r ∈ writableWords) (hcmd : r ≠ .cmd) :=
    busWrite_operand engine r v s h hb hr hcmd
  refine ⟨?_, operand .min (by decide) nofun, operand .max (by decide) nofun,
    ⟨_, operand .seedLo (by decide) nofun, ?_⟩, ⟨_, operand .seedHi (by decide) nofun, ?_⟩,
    fun off ha => busRead_idle off s h hb ha, fun e info => raiseError_later s e info he⟩
  · exact (busWrite_offset engine .cmd v s).trans (writeCommand_errored engine v s he)
  · apply BitVec.eq_of_toNat_eq
    rw [BitVec.toNat_ofNat, ← loHalf_toNat, loHalf_setLoHalf]
  · rw [← hiHalf_toNat, hiHalf_setHiHalf, BitVec.ofNat_toNat, BitVec.setWidth_eq]

end Sys2Proof.Machine
end

section
namespace Sys2Proof.Machine

/-! ### The first error that applies (R213) -/

/-- A command that fails its check sets the error record and nothing else, whoever's turn it is (R212, R216). -/
theorem writeCommand_rejected (engine : Bool) {w : Word} {i : Instr} {s : State} {e : ErrorCode} (hs : s.Ready)
    (hd : decode w = .ok i) (hc : checkOf i s = some e) :
    writeCommand engine w s = .next { s with errCode := e.bits, errInfo := w } := by
  obtain ⟨h, hb, he⟩ := hs
  have hp (k : State → State) : present i (checkOf i) k s = { s with errCode := e.bits, errInfo := w } := by
    simp [present, whenCommandable_open, h, hb, he, hc, raiseError_first, encode_of_decode hd]
  rw [writeCommand_ok engine w i s hd, exec_eq_present, acceptOnly, hp, hp, ite_self]

/-- A command that passes its check leaves the error record, pending or completed at once (R70). -/
theorem writeCommand_accepted_sameErrorRecord (engine : Bool) {w : Word} {i : Instr} {s : State} (hs : s.Ready)
    (hd : decode w = .ok i) (hc : checkOf i s = none) :
    ∃ t, writeCommand engine w s = .next t ∧ SameErrorRecord s t := by
  rw [writeCommand_ok engine w i s hd]
  cases engine with
  | false => exact ⟨accept i s, congrArg Host.Outcome.next (acceptOnly_ready i s hs hc), rfl, rfl⟩
  | true => exact ⟨_, exec_of_check i s hs hc, by simp, by simp⟩

theorem checkSeeded_eq (s : State) : checkSeeded s = if s.seeded = false then some .unseeded else none :=
  (ite_not _ _ _).symm.trans (if_congr (Bool.not_eq_true _).to_iff rfl rfl)

theorem checkRange_eq (s : State) :
    checkRange s = if s.maxReg.toInt < s.minReg.toInt then some .range else none :=
  (ite_not _ _ _).symm.trans (if_congr not_le rfl rfl)

theorem checkCounter_eq (s : State) :
    checkCounter s = if s.ctr.toNat = 2 ^ 64 - 1 then some .ctrOvf else none :=
  (ite_not _ _ _).symm.trans (if_congr (by omega) rfl rfl)

theorem checkSeedInt_eq (s : State) :
    checkSeedInt s = if 2 ^ 32 ≤ s.seed.toInt.natAbs then some .seedRange else none :=
  (ite_not _ _ _).symm.trans (if_congr not_lt rfl rfl)

theorem checkSeedTime_eq (s : State) :
    checkSeedTime s = if 2 ^ 32 ≤ s.timeS.toNat then some .seedRange else none :=
  (ite_not _ _ _).symm.trans (if_congr not_lt rfl rfl)

/-- A failing check comes before all later ones. -/
theorem ite_some_orElse (p : Prop) [Decidable p] (e : ErrorCode) (later : Option ErrorCode) :
    ((if p then some e else none) <|> later) = if p then some e else later := by
  split_ifs <;> rfl

/-- The checks of all commands in R213's order: `SEEDED`, the range, the seed's range, the counter. -/
theorem checkOf_eq_first_failing (i : Instr) (s : State) :
    checkOf i s =
      if i ∈ [.nextInt, .nextByte false, .nextByte true, .save, .restore] ∧ s.seeded = false then some .unseeded
      else if i = .nextInt ∧ s.maxReg.toInt < s.minReg.toInt then some .range
      else if (i = .seedInt ∧ 2 ^ 32 ≤ s.seed.toInt.natAbs) ∨ (i = .seedTime ∧ 2 ^ 32 ≤ s.timeS.toNat) then
        some .seedRange
      else if i ∈ [.nextInt, .nextByte false, .nextByte true] ∧ s.ctr.toNat = 2 ^ 64 - 1 then some .ctrOvf
      else none := by
  cases i with
  | nop | hashStart | hashByte | seedHash => simp [checkOf, checkNop, checkHashStart, checkHashByte, checkSeedHash]
  | seedInt => simp [checkOf, checkSeedInt_eq]
  | seedTime => simp [checkOf, checkSeedTime_eq]
  | nextInt => simp [checkOf_nextInt, checkSeeded_eq, checkRange_eq, checkCounter_eq, ite_some_orElse]
  | nextByte r => cases r <;> simp [checkOf_nextByte, checkSeeded_eq, checkCounter_eq, ite_some_orElse]
  | save => simp [checkOf, checkSave, checkSeeded_eq]
  | restore => simp [checkOf, checkRestore, checkSeeded_eq]

/-- Settles O26: the bus looks at the access first; `CMD` and the operand words then pass the gate of R67, and `CMD` that
of R215, the decoder and the command's checks in their order. -/
theorem errorPrecedence : Obligations.ErrorPrecedence := by
  intro engine off width v s h reports
  cases hlegal : legalAccess off width with
  | false =>
    rw [if_pos (by simpa [legalAccess, imp_iff_not_or] using hlegal)]
    exact busWrite_illegal engine off width v s hlegal
  | true =>
    obtain ⟨ha, rfl⟩ := (legalAccess_iff off width).1 hlegal
    obtain ⟨r, rfl⟩ : ∃ r : RegName, r.offset = off := ⟨_, offset_ofOffset off ha⟩
    rw [if_neg (by simp [ha])]
    simp only [reports, busWrite_offset, offset_mem_writable_iff, offset_eq_zero_iff]
    split_ifs with hbusy he hcmd he
    · obtain ⟨hr, hb⟩ := hbusy
      rw [regWrite_busy engine r v s h hb hr, raiseError_first s .busy _ he]
      rfl
    · obtain ⟨hr, hb⟩ := hbusy
      rw [regWrite_busy engine r v s h hb hr, raiseError_later s .busy _ he]
    · subst hcmd
      exact writeCommand_errored engine v s he
    · subst hcmd
      have hs : s.Ready := ⟨h, by simpa [writableWords] using hbusy, not_not.1 he⟩
      -- Each failing check answers with its own code; the last goal is the accepted command.
      cases hd : decode v with
      | error e => exact writeCommand_illegal engine v s (by simp [hd]) hs
      | ok i =>
        have hc := checkOf_eq_first_failing i s
        dsimp only
        split_ifs at hc ⊢
        · exact writeCommand_rejected engine hs hd hc
        · exact writeCommand_rejected engine hs hd hc
        · exact writeCommand_rejected engine hs hd hc
        · exact writeCommand_rejected engine hs hd hc
        · obtain ⟨t, ht, hcode, hinfo⟩ := writeCommand_accepted_sameErrorRecord engine hs hd hc
          exact ⟨t, ht, hcode.trans (not_not.1 he), hinfo⟩
    · exact regWrite_sameErrorRecord engine r v s hcmd fun hr hb => absurd ⟨hr, hb⟩ hbusy

end Sys2Proof.Machine
end

section
namespace Sys2Proof.Machine

/-! ### `SEEDED` and `SAVED_VALID`, once 1, stay 1 until a reset (R29, R30, R242) -/

/-- From `s` to `t` neither `SEEDED` nor `SAVED_VALID` goes from 1 to 0. -/
structure KeepsFlags (s t : State) : Prop where
  seeded : s.seeded = true → t.seeded = true
  savedValid : s.savedValid = true → t.savedValid = true

theorem keepsFlags_of_eq {s t : State} (hseeded : t.seeded = s.seeded) (hvalid : t.savedValid = s.savedValid) :
    KeepsFlags s t := ⟨hseeded.trans, hvalid.trans⟩

theorem KeepsFlags.refl (s : State) : KeepsFlags s s := ⟨id, id⟩

theorem KeepsFlags.trans {s t u : State} (hst : KeepsFlags s t) (htu : KeepsFlags t u) : KeepsFlags s u :=
  ⟨htu.seeded ∘ hst.seeded, htu.savedValid ∘ hst.savedValid⟩

/-- The seeding commands set `SEEDED` and `SAVE` sets `SAVED_VALID`; no other effect writes either flag. -/
theorem effectOf_keepsFlags (i : Instr) (s : State) : KeepsFlags s (effectOf i s) := by
  cases i with
  | seedInt | seedTime | seedHash => exact ⟨fun _ => seedWith_seeded s _, id⟩
  | save => exact ⟨id, fun _ => Eq.refl true⟩
  | nop | hashStart | hashByte _ | nextInt | nextByte _ | restore => exact ⟨id, id⟩

theorem raiseError_keepsFlags (e : ErrorCode) (info : Word) (s : State) : KeepsFlags s (raiseError e info s) :=
  keepsFlags_of_eq (raiseError_seeded s e info) (raiseError_savedValid s e info)

theorem accept_keepsFlags (i : Instr) (s : State) : KeepsFlags s (accept i s) :=
  keepsFlags_of_eq (accept_seeded s i) (accept_savedValid s i)

theorem completeEffect_keepsFlags (i : Instr) (s : State) : KeepsFlags s (complete (effectOf i) s) :=
  (effectOf_keepsFlags i s).trans (keepsFlags_of_eq (complete_seeded s _) (complete_savedValid s _))

theorem setOperand_keepsFlags (r : RegName) (v : Word) (s : State) : KeepsFlags s (setOperand r v s) := by
  cases r <;> exact ⟨id, id⟩

/-- The gates keep the flags if what stands behind them does. -/
theorem whenWritable_keepsFlags (off : Offset) {s : State} {k : State → State} (hk : KeepsFlags s (k s)) :
    KeepsFlags s (whenWritable off s k) := by
  obtain ⟨-, h⟩ | ⟨-, -, h⟩ | ⟨-, -, h⟩ := whenWritable_cases off s k <;> rw [h]
  · exact .refl s
  · exact raiseError_keepsFlags .busy _ s
  · exact hk

theorem whenCommandable_keepsFlags {s : State} {k : State → State} (hk : KeepsFlags s (k s)) :
    KeepsFlags s (whenCommandable s k) := by
  apply whenWritable_keepsFlags
  split
  · exact .refl s
  · exact hk

theorem present_keepsFlags (i : Instr) (check : State → Option ErrorCode) {k : State → State} {s : State}
    (hk : KeepsFlags s (k (accept i s))) : KeepsFlags s (present i check k s) := by
  apply whenCommandable_keepsFlags
  split
  · exact raiseError_keepsFlags _ _ s
  · exact hk

/-- A command word keeps the flags, legal or not, completed at once or left pending. -/
theorem writeCommand_keepsFlags {engine : Bool} {w : Word} {s t : State} (h : writeCommand engine w s = .next t) :
    KeepsFlags s t := by
  cases hd : decode w with
  | error e =>
    rw [writeCommand_error engine w e s hd] at h
    cases h
    exact whenCommandable_keepsFlags (raiseError_keepsFlags .illegal w s)
  | ok i =>
    rw [writeCommand_ok engine w i s hd, exec_eq_present] at h
    cases engine with
    | true =>
      cases h
      exact present_keepsFlags i (checkOf i) ((accept_keepsFlags i s).trans (completeEffect_keepsFlags i _))
    | false =>
      cases h
      exact present_keepsFlags i (checkOf i) (accept_keepsFlags i s)

theorem regWrite_keepsFlags {engine : Bool} {r : RegName} {v : Word} {s t : State}
    (h : regWrite engine r v s = .next t) : KeepsFlags s t := by
  by_cases hr : r = .cmd
  · subst hr
    exact writeCommand_keepsFlags h
  · obtain ⟨-, hw⟩ | ⟨-, hw⟩ := regWrite_cases engine r v s hr <;> rw [hw] at h <;> cases h
    · exact .refl s
    · exact whenWritable_keepsFlags r.offset (setOperand_keepsFlags r v s)

theorem busWrite_keepsFlags {engine : Bool} {off : Offset} {width : Nat} {v : Word} {s t : State}
    (h : busWrite engine off width v s = .next t) : KeepsFlags s t := by
  cases hl : legalAccess off width with
  | false =>
    rw [busWrite_illegal engine off width v s hl] at h
    cases h
    exact ⟨id, id⟩
  | true =>
    rw [busWrite, if_pos hl] at h
    exact regWrite_keepsFlags h

theorem busRead_keepsFlags (off : Offset) (width : Nat) (s : State) : KeepsFlags s (busRead off width s) := by
  unfold busRead
  split <;> exact ⟨id, id⟩

/-- No act of the host but an event on `RST` that resets the block, or a loss of power, clears a flag. -/
theorem hostDoes_keepsFlags {engine : Bool} {a : HostAct} {s t : State} (h : hostDoes engine a s = .next t)
    (hreset : a.isReset = false) (hpower : a ≠ .powerCycle) : KeepsFlags s t := by
  cases a with
  | read off width =>
    cases h
    exact busRead_keepsFlags off width s
  | write off width v => exact busWrite_keepsFlags h
  | wait | releaseRst =>
    cases h
    exact ⟨id, id⟩
  | reset | assertRst => cases hreset
  | powerCycle => exact absurd rfl hpower

theorem completePending_keepsFlags {s t : State} (h : completePending s = .next t) : KeepsFlags s t := by
  cases hd : decode s.pend with
  | error e => simp [completePending, hd] at h
  | ok i =>
    rw [completePending_ok s i hd] at h
    cases h
    exact completeEffect_keepsFlags i s

/-- No step but one of the host's reset or of a loss of power clears a flag. -/
theorem step_keepsFlags {s t : State} (h : step s = .next t) (hpower : s.actNow ≠ some .powerCycle)
    (hreset : s.resetsNext = false) : KeepsFlags s t := by
  have hturn : KeepsFlags s (takeTurn s) := keepsFlags_of_eq (takeTurn_seeded s) (takeTurn_savedValid s)
  obtain hdone | rfl | ⟨a, rest, hact, hdoes⟩ := step_next_cases h
  · exact hturn.trans (completePending_keepsFlags hdone)
  · exact hturn
  · have hne : a.isReset = false := by simpa [State.resetsNext, hact] using hreset
    have hkeeps := hostDoes_keepsFlags hdoes hne fun hp => hpower (hp ▸ hact)
    exact ⟨hkeeps.seeded ∘ hturn.seeded, hkeeps.savedValid ∘ hturn.savedValid⟩

/-- Settles O43: a step that is no reset keeps a recorded error and both flags; the atomic reset puts all four at their
reset values. -/
theorem onlyResetClears : Obligations.OnlyResetClears := by
  refine ⟨fun s t h hpower hcleared => ?_, fun engine s => ⟨_, rfl, rfl, rfl, rfl, rfl⟩⟩
  by_contra hno
  have hreset : s.resetsNext = false := Bool.eq_false_of_not_eq_true hno
  have hflags := step_keepsFlags h hpower hreset
  obtain ⟨he, hchanged⟩ | ⟨hseeded, hcleared⟩ | ⟨hvalid, hcleared⟩ := hcleared
  · obtain ⟨hcode, hinfo⟩ := step_errored_sameErrorRecord h he hpower hreset
    exact hchanged.elim (· hcode) (· hinfo)
  · exact Bool.false_ne_true (hcleared.symm.trans (hflags.seeded hseeded))
  · exact Bool.false_ne_true (hcleared.symm.trans (hflags.savedValid hvalid))

end Sys2Proof.Machine
end

section
namespace Sys2Proof

/-! ### Decoder and encoder (R94, R100) -/

/-- Settles O1: `decode_eq_ok_iff`, for every command and every word. -/
theorem decodeEncodeAgree : Obligations.DecodeEncodeAgree := fun i w => decode_eq_ok_iff w i

/-- Settles O4: the decoder evaluated on each word. -/
theorem writtenOutWordsDecode : Obligations.WrittenOutWordsDecode :=
  ⟨rfl, rfl, rfl, rfl, rfl, rfl, rfl, rfl, rfl, rfl, rfl⟩

end Sys2Proof
end

section
namespace Sys2Proof.Machine

/-! ### What it is to serve, and to take commands, part by part -/

theorem rst_of_serves {s : State} (h : s.serves = true) : s.rst = false := ((serves_iff s).1 h).1

theorem lost_of_serves {s : State} (h : s.serves = true) : s.lost = false := ((serves_iff s).1 h).2

theorem State.Ready.serves {s : State} (hs : s.Ready) : s.serves = true := hs.1

theorem State.Ready.idle {s : State} (hs : s.Ready) : s.busy = false := hs.2.1

theorem State.Ready.noError {s : State} (hs : s.Ready) : s.errCode = 0 := hs.2.2

/-! ### What a bus write can do (R63, R66, R67, R70, R212) -/

/-- The outcomes of a bus write, each with what holds where it happens. -/
inductive WriteOutcome (engine : Bool) (off : Offset) (width : Nat) (v : Word) (s : State) : State → Prop
  /-- The access is illegal and is recorded as a bus fault. -/
  | faulted (hlegal : legalAccess off width = false) : WriteOutcome engine off width v s (raiseBusFault off s)
  /-- The write has no effect. -/
  | ignored (hlegal : legalAccess off width = true) : WriteOutcome engine off width v s s
  /-- The first error is recorded, and nothing else changes; code 2 where a command is pending, and only there. -/
  | recorded (e : ErrorCode) (info : Word) (hlegal : legalAccess off width = true) (hserves : s.serves = true)
      (herr : s.errCode = 0) (hword : RegName.ofOffset off ∈ writableWords) (hbusy : e = .busy ↔ s.busy = true) :
      WriteOutcome engine off width v s { s with errCode := e.bits, errInfo := info }
  /-- An operand register is set. -/
  | operand (hlegal : legalAccess off width = true) (hserves : s.serves = true) (hidle : s.busy = false) :
      WriteOutcome engine off width v s (setOperand (RegName.ofOffset off) v s)
  /-- A command is accepted and stays pending. -/
  | accepted (i : Instr) (hact : HostAct.write off width v = actCommand i) (hs : s.Ready) (hc : checkOf i s = none) :
      WriteOutcome engine off width v s (accept i s)
  /-- A command is accepted and completes at once. -/
  | completed (i : Instr) (hact : HostAct.write off width v = actCommand i) (hs : s.Ready)
      (hc : checkOf i s = none) : WriteOutcome engine off width v s (complete (effectOf i) (accept i s))

/-- Raising an error behind the gate either records it or, where one is recorded, does nothing. -/
theorem WriteOutcome.raiseError {engine : Bool} {off : Offset} {width : Nat} {v : Word} {s : State} (e : ErrorCode)
    (info : Word) (hlegal : legalAccess off width = true) (hserves : s.serves = true)
    (hword : RegName.ofOffset off ∈ writableWords) (hbusy : e = .busy ↔ s.busy = true) :
    WriteOutcome engine off width v s (raiseError e info s) := by
  by_cases he : s.errCode = 0
  · rw [raiseError_first s e info he]
    exact .recorded e info hlegal hserves he hword hbusy
  · rw [raiseError_later s e info he]
    exact .ignored hlegal

/-- Code 2 is the gate's, of no command's own check. -/
theorem checkOf_ne_busy (i : Instr) (s : State) : checkOf i s ≠ some .busy := by
  rw [checkOf_eq_first_failing]
  split_ifs <;> simp

/-- A write to `CMD` of a legal word, accepted only or run whole. -/
theorem present_outcome {engine : Bool} {i : Instr} {s : State} {k : State → State}
    (hk : s.Ready → checkOf i s = none → WriteOutcome engine 0x00 32 (encode i) s (k (accept i s))) :
    WriteOutcome engine 0x00 32 (encode i) s (present i (checkOf i) k s) := by
  obtain ⟨-, hp⟩ | ⟨hserves, hb, hp⟩ | ⟨-, -, -, hp⟩ | ⟨hserves, hb, he, e, hc, hp⟩ | ⟨hserves, hb, he, hc, hp⟩ :=
    present_cases i (checkOf i) k s <;> rw [hp]
  · exact .ignored rfl
  · exact .raiseError .busy 0 rfl hserves (by decide) ⟨fun _ => hb, fun _ => rfl⟩
  · exact .ignored rfl
  · exact .recorded e (encode i) rfl hserves he (by decide)
      (iff_of_false (fun hbusy => checkOf_ne_busy i s (hbusy ▸ hc)) (Bool.eq_false_iff.1 hb))
  · exact hk ⟨hserves, hb, he⟩ hc

theorem writeCommand_outcome {engine : Bool} {v : Word} {s t : State} (h : writeCommand engine v s = .next t) :
    WriteOutcome engine 0x00 32 v s t := by
  cases hd : decode v with
  | error e =>
    rw [writeCommand_error engine v e s hd] at h
    cases h
    obtain ⟨-, hp⟩ | ⟨hserves, hb, hp⟩ | ⟨-, -, -, hp⟩ | ⟨hserves, hb, -, hp⟩ :=
      whenCommandable_cases s (raiseError .illegal v) <;> rw [presentIllegal, hp]
    · exact .ignored rfl
    · exact .raiseError .busy 0 rfl hserves (by decide) ⟨fun _ => hb, fun _ => rfl⟩
    · exact .ignored rfl
    · exact .raiseError .illegal v rfl hserves (by decide) (iff_of_false nofun (Bool.eq_false_iff.1 hb))
  | ok i =>
    rw [writeCommand_ok engine v i s hd, exec_eq_present] at h
    obtain rfl := encode_of_decode hd
    cases engine with
    | true =>
      cases h
      exact present_outcome fun hs hc => .completed i rfl hs hc
    | false =>
      cases h
      exact present_outcome (k := id) fun hs hc => .accepted i rfl hs hc

/-- Every bus write that answers a next state has one of the outcomes. -/
theorem busWrite_outcome {engine : Bool} {off : Offset} {width : Nat} {v : Word} {s t : State}
    (h : busWrite engine off width v s = .next t) : WriteOutcome engine off width v s t := by
  cases hlegal : legalAccess off width with
  | false =>
    rw [busWrite_illegal engine off width v s hlegal] at h
    cases h
    exact .faulted hlegal
  | true =>
    have hword := h
    rw [busWrite, if_pos hlegal] at hword
    by_cases hcmd : RegName.ofOffset off = .cmd
    · obtain ⟨ha, rfl⟩ := (legalAccess_iff off width).1 hlegal
      obtain rfl : 0x00 = off := by rw [← offset_ofOffset off ha, hcmd]; rfl
      exact writeCommand_outcome hword
    · obtain ⟨-, hw⟩ | ⟨hmem, hw⟩ := regWrite_cases engine _ v s hcmd <;> rw [hw] at hword <;> cases hword
      · exact .ignored hlegal
      · obtain ⟨-, hk⟩ | ⟨hserves, hb, hk⟩ | ⟨hserves, hb, hk⟩ :=
          whenWritable_cases (RegName.ofOffset off).offset s (setOperand (RegName.ofOffset off) v) <;> rw [hk]
        · exact .ignored hlegal
        · exact .raiseError .busy _ hlegal hserves hmem ⟨fun _ => hb, fun _ => rfl⟩
        · exact .operand hlegal hserves hb

theorem writeCommand_next (engine : Bool) (v : Word) (s : State) : ∃ t, writeCommand engine v s = .next t := by
  cases hd : decode v with
  | error e => exact ⟨_, writeCommand_error engine v e s hd⟩
  | ok i =>
    rw [writeCommand_ok engine v i s hd]
    cases engine with
    | true => exact exec_next i s
    | false => exact ⟨_, rfl⟩

/-- A bus write always answers a next state. -/
theorem busWrite_next (engine : Bool) (off : Offset) (width : Nat) (v : Word) (s : State) :
    ∃ t, busWrite engine off width v s = .next t := by
  cases hlegal : legalAccess off width with
  | false => exact ⟨_, busWrite_illegal engine off width v s hlegal⟩
  | true =>
    rw [busWrite, if_pos hlegal]
    by_cases hcmd : RegName.ofOffset off = .cmd
    · rw [hcmd]
      exact writeCommand_next engine v s
    · obtain ⟨-, hw⟩ | ⟨-, hw⟩ := regWrite_cases engine _ v s hcmd <;> exact ⟨_, hw⟩

end Sys2Proof.Machine
end

section
namespace Sys2Proof.Machine

/-! ### The block and what does not touch it -/

@[simp] theorem takeTurn_block (s : State) : (takeTurn s).block = s.block := by
  unfold takeTurn; split <;> rfl

@[simp] theorem busRead_block (off : Offset) (width : Nat) (s : State) : (busRead off width s).block = s.block := by
  unfold busRead; split <;> rfl

@[simp] theorem busRead_rst (off : Offset) (width : Nat) (s : State) : (busRead off width s).rst = s.rst := by
  unfold busRead; split <;> rfl

theorem pendingLegal_congr {s t : State} (hpend : t.pend = s.pend)
    (h : ∀ i, pendingPasses i t = pendingPasses i s) : pendingLegal t = pendingLegal s := by
  simp only [pendingLegal, hpend, h]

@[simp] theorem busRead_timeS (off : Offset) (width : Nat) (s : State) : (busRead off width s).timeS = s.timeS := by
  unfold busRead; split <;> rfl

@[simp] theorem busRead_env (off : Offset) (width : Nat) (s : State) : (busRead off width s).env = s.env := by
  unfold busRead; split <;> rfl

@[simp] theorem busRead_host (off : Offset) (width : Nat) (s : State) : (busRead off width s).host = s.host := by
  unfold busRead; split <;> rfl

/-- A pending command's checks read the block alone: `SEED_TIME`'s operand is its sample (R125). -/
theorem pendingLegal_block (s : State) : pendingLegal s.block = pendingLegal s :=
  pendingLegal_congr rfl fun i => by cases i <;> rfl

/-- No check reads the error record. -/
theorem pendingLegal_errorRecord (code : BitVec 4) (info : Word) (s : State) :
    pendingLegal { s with errCode := code, errInfo := info } = pendingLegal s :=
  pendingLegal_congr rfl fun i => by cases i <;> rfl

/-! ### The checks of a pending command (R70, R212) -/

theorem pendingLegal_of_pend {s : State} {i : Instr} (hp : s.pend = encode i) :
    pendingLegal s = pendingPasses i s := by rw [pendingLegal, hp, decode_encode]

/-- Acceptance keeps a passed check true: `SEED_TIME`'s on its sample, any other on its unchanged operands. -/
theorem pendingPasses_accept {i : Instr} {s : State} (hc : checkOf i s = none) :
    pendingPasses i (accept i s) = true := by
  cases i with
  | seedTime =>
    rw [checkOf, checkSeedTime, ite_eq_left_iff] at hc
    simpa [pendingPasses] using hc
  | _ => exact Option.isNone_iff_eq_none.2 hc

/-- `SAVE`, `RESTORE` and the draws ask for `SEEDED = 1` (R160, R190, R191). -/
theorem seeded_of_check {i : Instr} {s : State} (hi : isDraw i = true ∨ i = .save ∨ i = .restore)
    (hc : checkOf i s = none) : s.seeded = true := by
  by_contra hunseeded
  rw [Bool.not_eq_true] at hunseeded
  have hmem : i ∈ [.nextInt, .nextByte false, .nextByte true, .save, .restore] := by
    cases i with
    | nextByte r => cases r <;> decide
    | nextInt | save | restore => decide
    | _ => simp [isDraw] at hi
  rw [checkOf_eq_first_failing, if_pos ⟨hmem, hunseeded⟩] at hc
  cases hc

/-- The draws ask for room in the counter (R160, R163). -/
theorem counter_of_check {i : Instr} {s : State} (hi : isDraw i = true) (hc : checkOf i s = none) :
    s.ctr.toNat < 2 ^ 64 - 1 := by
  by_contra hend
  have hlast : s.ctr.toNat = 2 ^ 64 - 1 := by
    have := s.ctr.isLt
    omega
  have hctr := checkCounter_of_end hlast
  have hseeded := checkSeeded_of_seeded (seeded_of_check (.inl hi) hc)
  cases i with
  | nextInt =>
    rw [checkOf_nextInt, hseeded, hctr] at hc
    cases hr : checkRange s <;> rw [hr] at hc <;> cases hc
  | nextByte r =>
    rw [checkOf_nextByte, hseeded, hctr] at hc
    cases hc
  | _ => cases hi

/-- A pending command that passes and is not `SEED_TIME` passes its own check. -/
theorem checkOf_of_pendingPasses {i : Instr} {s : State} (hp : pendingPasses i s = true) (hi : i ≠ .seedTime) :
    checkOf i s = none := by
  cases i with
  | seedTime => exact absurd rfl hi
  | _ => exact Option.isNone_iff_eq_none.1 hp

/-! ### The invariant, operation by operation (R35, R36, R42, R70, R240) -/

/-- The invariant speaks of the block, and of `RST` only in its last clause. -/
theorem inv_of_block_eq {s t : State} (hs : s.Inv) (hblock : t.block = s.block) (hheld : t.lost = false → t.heldOk) :
    t.Inv := by
  intro hlost
  obtain ⟨herr, hunseeded, hsnapshot, hpending, -⟩ := hs ((congrArg State.lost hblock).symm.trans hlost)
  have hs' : s.block.errorRecordOk ∧ s.block.unseededOk ∧ s.block.snapshotOk ∧ s.block.pendingOk :=
    ⟨herr, hunseeded, hsnapshot, fun hb => (pendingLegal_block s).trans (hpending hb)⟩
  rw [← hblock] at hs'
  obtain ⟨herr', hunseeded', hsnapshot', hpending'⟩ := hs'
  exact ⟨herr', hunseeded', hsnapshot', fun hb => (pendingLegal_block t).symm.trans (hpending' hb), hheld hlost⟩

theorem inv_of_block_rst_eq {s t : State} (hs : s.Inv) (hblock : t.block = s.block) (hrst : t.rst = s.rst) : t.Inv := by
  refine inv_of_block_eq hs hblock fun hlost hheld => ?_
  obtain ⟨-, -, -, -, hreset⟩ := hs ((congrArg State.lost hblock).symm.trans hlost)
  exact hblock.trans (hreset (hrst ▸ hheld))

/-- Settles O57: the invariant's clauses evaluated on the reset values. -/
theorem resetMeetsInvariant : Obligations.ResetMeetsInvariant := by
  unfold Obligations.ResetMeetsInvariant
  decide

theorem inv_of_reset_block {t : State} (h : t.block = State.reset.block) : t.Inv :=
  inv_of_block_eq resetMeetsInvariant h fun _ _ => h

/-- An asserted `RST` and a pending command exclude each other. -/
theorem rst_of_inv_busy {s : State} (hs : s.Inv) (hlost : s.lost = false) (hb : s.busy = true) : s.rst = false := by
  obtain ⟨-, -, -, -, hheld⟩ := hs hlost
  refine Bool.eq_false_of_not_eq_true fun hrst => ?_
  have hidle : s.busy = false := congrArg State.busy (hheld hrst)
  exact Bool.false_ne_true (hidle.symm.trans hb)

/-- A first error recorded by a block with `RST` released. -/
theorem inv_errorRecord {s : State} (hs : s.Inv) (hrst : s.rst = false) (e : ErrorCode) (info : Word) :
    ({ s with errCode := e.bits, errInfo := info } : State).Inv := by
  intro hlost
  obtain ⟨-, hunseeded, hsnapshot, hpending, -⟩ := hs hlost
  exact ⟨⟨errorBits_le_six e, fun h0 => absurd h0 (errorBits_ne_zero e)⟩, hunseeded, hsnapshot,
    fun hb => (pendingLegal_errorRecord _ _ s).trans (hpending hb),
    fun h => absurd (hrst.symm.trans h) Bool.false_ne_true⟩

/-- An operand set while no command is pending. -/
theorem inv_setOperand {s : State} (hs : s.Inv) (hrst : s.rst = false) (hb : s.busy = false) (r : RegName) (v : Word) :
    (setOperand r v s).Inv := by
  have hlost' : (setOperand r v s).lost = s.lost := by cases r <;> rfl
  have hb' : (setOperand r v s).busy = s.busy := by cases r <;> rfl
  have hrst' : (setOperand r v s).rst = s.rst := by cases r <;> rfl
  intro hlost
  obtain ⟨herr, hunseeded, hsnapshot, -, -⟩ := hs (hlost'.symm.trans hlost)
  have hidle (h : (setOperand r v s).busy = true) : False := Bool.false_ne_true ((hb'.trans hb).symm.trans h)
  have hreleased (h : (setOperand r v s).rst = true) : False := Bool.false_ne_true ((hrst'.trans hrst).symm.trans h)
  refine ⟨?_, ?_, ?_, fun h => (hidle h).elim, fun h => (hreleased h).elim⟩ <;> cases r <;> assumption

theorem inv_accept {i : Instr} {s : State} (hs : s.Inv) (hrst : s.rst = false) (hc : checkOf i s = none) :
    (accept i s).Inv := by
  intro hlost
  obtain ⟨herr, hunseeded, hsnapshot, -, -⟩ := hs hlost
  exact ⟨herr, hunseeded, hsnapshot, fun _ => (pendingLegal_of_pend rfl).trans (pendingPasses_accept hc),
    fun h => absurd (hrst.symm.trans h) Bool.false_ne_true⟩

/-- An unseeded block's registers are touched only by commands that seed it, or ask that it is seeded. -/
theorem unseededOk_effectOf {i : Instr} {s : State} (hs : s.unseededOk) (hp : pendingPasses i s = true) :
    (effectOf i s).unseededOk := by
  cases i with
  | nop | hashStart | hashByte => exact hs
  | seedInt | seedTime | seedHash => exact nofun
  | nextInt | nextByte | save | restore =>
    have hseeded := seeded_of_check (by simp [isDraw]) (checkOf_of_pendingPasses hp nofun)
    exact fun h => absurd (h.symm.trans hseeded) Bool.false_ne_true

/-- Only `SAVE` writes `SAVED`, and it sets `SAVED_VALID`. -/
theorem snapshotOk_effectOf {i : Instr} {s : State} (hs : s.snapshotOk) : (effectOf i s).snapshotOk := by
  cases i with
  | save => exact nofun
  | _ => exact hs

/-- A pending command whose checks hold completes. -/
theorem inv_complete {i : Instr} {s : State} (hs : s.Inv) (hrst : s.rst = false) (hp : pendingPasses i s = true) :
    (complete (effectOf i) s).Inv := by
  intro hlost
  obtain ⟨herr, hunseeded, hsnapshot, -, -⟩ := hs ((effectOf_lost i s).symm.trans hlost)
  refine ⟨?_, unseededOk_effectOf hunseeded hp, snapshotOk_effectOf hsnapshot, nofun,
    fun h => absurd ((hrst.symm.trans (effectOf_rst i s).symm).trans h) Bool.false_ne_true⟩
  simpa [State.errorRecordOk] using herr

theorem inv_busWrite {engine : Bool} {off : Offset} {width : Nat} {v : Word} {s t : State} (hs : s.Inv)
    (h : busWrite engine off width v s = .next t) : t.Inv := by
  cases busWrite_outcome h with
  | faulted _ => exact inv_of_block_rst_eq hs rfl rfl
  | ignored _ => exact hs
  | recorded e info _ hserves _ _ _ => exact inv_errorRecord hs (rst_of_serves hserves) e info
  | operand _ hserves hb => exact inv_setOperand hs (rst_of_serves hserves) hb _ v
  | accepted i _ hready hc => exact inv_accept hs (rst_of_serves hready.serves) hc
  | completed i _ hready hc =>
    have hrst := rst_of_serves hready.serves
    exact inv_complete (inv_accept hs hrst hc) hrst (pendingPasses_accept hc)

theorem inv_hostDoes {engine : Bool} {a : HostAct} {s t : State} (hs : s.Inv) (h : hostDoes engine a s = .next t) :
    t.Inv := by
  cases a with
  | read off width =>
    cases h
    exact inv_of_block_rst_eq hs (busRead_block off width s) (busRead_rst off width s)
  | write off width v => exact inv_busWrite hs h
  | wait =>
    cases h
    exact inv_of_block_rst_eq hs rfl rfl
  | reset | assertRst =>
    cases h
    exact inv_of_reset_block rfl
  | releaseRst =>
    cases h
    exact inv_of_block_eq hs rfl nofun
  | powerCycle =>
    cases h
    exact nofun

/-- In a state of the invariant, the pending command that the engine completes is legal and its checks hold. -/
theorem exists_pending_of_inv {s : State} (hs : s.Inv) (hlost : s.lost = false) (hb : s.busy = true) :
    ∃ i, s.pend = encode i ∧ pendingPasses i s = true := by
  obtain ⟨-, -, -, hpending, -⟩ := hs hlost
  have hlegal := hpending hb
  cases hd : decode s.pend with
  | error e => simp [pendingLegal, hd] at hlegal
  | ok i =>
    have hp : s.pend = encode i := (encode_of_decode hd).symm
    exact ⟨i, hp, (pendingLegal_of_pend hp).symm.trans hlegal⟩

theorem pendingPasses_of_inv {s : State} {i : Instr} (hs : s.Inv) (hlost : s.lost = false) (hb : s.busy = true)
    (hp : s.pend = encode i) : pendingPasses i s = true := by
  obtain ⟨j, hpend, hpasses⟩ := exists_pending_of_inv hs hlost hb
  exact encode_injective (hpend.symm.trans hp) ▸ hpasses

/-! ### Steps: every step answers a next state that meets the invariant -/

theorem step_engine {s : State} (h : engineCompletes s = true) : step s = completePending (takeTurn s) := if_pos h

theorem step_idle {s : State} (hhost : s.host = []) (hbusy : engineCompletes s = false) :
    step s = .next (takeTurn s) := by
  rw [step, if_neg (Bool.eq_false_iff.1 hbusy), hostMoves_nil _ _ ((takeTurn_host s).trans hhost)]

/-- The state in which the host does its act: the turn taken, the act off the program. -/
def beginAct (s : State) (rest : List HostAct) : State := { takeTurn s with host := rest }

@[simp] theorem beginAct_block (s : State) (rest : List HostAct) : (beginAct s rest).block = s.block := takeTurn_block s
@[simp] theorem beginAct_rst (s : State) (rest : List HostAct) : (beginAct s rest).rst = s.rst := takeTurn_rst s
@[simp] theorem beginAct_lost (s : State) (rest : List HostAct) : (beginAct s rest).lost = s.lost := takeTurn_lost s
@[simp] theorem beginAct_serves (s : State) (rest : List HostAct) : (beginAct s rest).serves = s.serves :=
  takeTurn_serves s
@[simp] theorem beginAct_busy (s : State) (rest : List HostAct) : (beginAct s rest).busy = s.busy := takeTurn_busy s
@[simp] theorem beginAct_errCode (s : State) (rest : List HostAct) : (beginAct s rest).errCode = s.errCode :=
  takeTurn_errCode s
@[simp] theorem beginAct_ctr (s : State) (rest : List HostAct) : (beginAct s rest).ctr = s.ctr := takeTurn_ctr s
@[simp] theorem beginAct_reads (s : State) (rest : List HostAct) : (beginAct s rest).reads = s.reads := takeTurn_reads s
@[simp] theorem beginAct_busFaults (s : State) (rest : List HostAct) : (beginAct s rest).busFaults = s.busFaults :=
  takeTurn_busFaults s
@[simp] theorem beginAct_host (s : State) (rest : List HostAct) : (beginAct s rest).host = rest := rfl

theorem step_act {s : State} {a : HostAct} {rest : List HostAct} (hhost : s.host = a :: rest)
    (hbusy : engineCompletes s = false) : step s = hostDoes (engineActs s) a (beginAct s rest) := by
  rw [step, if_neg (Bool.eq_false_iff.1 hbusy), hostMoves_cons _ _ a rest ((takeTurn_host s).trans hhost)]
  rfl

theorem actNow_of_act {s : State} {a : HostAct} {rest : List HostAct} (hhost : s.host = a :: rest)
    (hbusy : engineCompletes s = false) : s.actNow = some a := by simp [State.actNow, hhost, hbusy]

theorem completePending_of_pend {s : State} {i : Instr} (hp : s.pend = encode i) :
    completePending s = .next (complete (effectOf i) s) :=
  completePending_ok s i (hp ▸ decode_encode i)

/-- A completion that answers a next state had a legal word in `PEND`. -/
theorem exists_pending_of_completePending {s t : State} (h : completePending s = .next t) :
    ∃ i, s.pend = encode i ∧ t = complete (effectOf i) s := by
  cases hd : decode s.pend with
  | error e => simp [completePending, hd] at h
  | ok i => exact ⟨i, (encode_of_decode hd).symm, Host.Outcome.next.inj (h.symm.trans (completePending_ok s i hd))⟩

theorem hostDoes_next (engine : Bool) (a : HostAct) (s : State) : ∃ t, hostDoes engine a s = .next t := by
  cases a with
  | write off width v => exact busWrite_next engine off width v s
  | _ => exact ⟨_, rfl⟩

/-- What a step that answers `t` was: the completion of the command in `PEND`, nothing but a turn, or one act of the
host. -/
inductive StepOutcome (s t : State) : Prop
  | completes (i : Instr) (hbusy : s.busy = true) (hlost : s.lost = false) (hpend : s.pend = encode i)
      (ht : t = complete (effectOf i) (takeTurn s))
  | idle (hhost : s.host = []) (ht : t = takeTurn s)
  | acts (a : HostAct) (rest : List HostAct) (hhost : s.host = a :: rest) (hact : s.actNow = some a)
      (hdoes : hostDoes (engineActs s) a (beginAct s rest) = .next t)

theorem step_outcome {s t : State} (h : step s = .next t) : StepOutcome s t := by
  cases hc : engineCompletes s with
  | true =>
    obtain ⟨hbusy, -, hlost⟩ := (engineCompletes_iff s).1 hc
    rw [step_engine hc] at h
    obtain ⟨i, hpend, ht⟩ := exists_pending_of_completePending h
    exact .completes i hbusy hlost ((takeTurn_pend s).symm.trans hpend) ht
  | false =>
    cases hhost : s.host with
    | nil => exact .idle hhost (Host.Outcome.next.inj ((step_idle hhost hc).symm.trans h)).symm
    | cons a rest => exact .acts a rest hhost (actNow_of_act hhost hc) ((step_act hhost hc).symm.trans h)

theorem inv_takeTurn {s : State} (hs : s.Inv) : (takeTurn s).Inv :=
  inv_of_block_rst_eq hs (takeTurn_block s) (takeTurn_rst s)

theorem inv_beginAct {s : State} (hs : s.Inv) (rest : List HostAct) : (beginAct s rest).Inv :=
  inv_of_block_rst_eq hs (beginAct_block s rest) (beginAct_rst s rest)

/-- Settles O58: the turn is outside the block, the pending command of an invariant state completes, and each act of the
host keeps the invariant. -/
theorem stepKeepsInvariant : Obligations.StepKeepsInvariant := by
  intro s t hs h
  cases step_outcome h with
  | completes i hbusy hlost hpend ht =>
    subst ht
    have hpasses := pendingPasses_of_inv (inv_takeTurn hs) ((takeTurn_lost s).trans hlost)
      ((takeTurn_busy s).trans hbusy) ((takeTurn_pend s).trans hpend)
    exact inv_complete (inv_takeTurn hs) ((takeTurn_rst s).trans (rst_of_inv_busy hs hlost hbusy)) hpasses
  | idle _ ht => exact ht ▸ inv_takeTurn hs
  | acts a rest _ _ hdoes => exact inv_hostDoes (inv_beginAct hs rest) hdoes

/-- Settles O59: the engine finds a legal word in `PEND`, and every act of the host answers a next state. -/
theorem stepNeverStops : Obligations.StepNeverStops := by
  intro s hs
  cases hc : engineCompletes s with
  | true =>
    obtain ⟨hbusy, -, hlost⟩ := (engineCompletes_iff s).1 hc
    obtain ⟨i, hpend, -⟩ := exists_pending_of_inv hs hlost hbusy
    exact ⟨_, (step_engine hc).trans (completePending_of_pend ((takeTurn_pend s).trans hpend))⟩
  | false =>
    cases hhost : s.host with
    | nil => exact ⟨_, step_idle hhost hc⟩
    | cons a rest =>
      rw [step_act hhost hc]
      exact hostDoes_next _ a _

/-! ### The counter (R27, R163) -/

/-- A draw's new counter, as an addition. -/
theorem ofNat_ctr_succ (ctr : DWord) : BitVec.ofNat 64 (ctr.toNat + 1) = ctr + 1 :=
  BitVec.eq_of_toNat_eq (by simp)

/-- A command adds 1 to `CTR` if it is a draw, clears it if it seeds, and else leaves it. -/
theorem effectOf_ctr (i : Instr) (s : State) :
    (effectOf i s).ctr = s.ctr ∨ (isDraw i = true ∧ (effectOf i s).ctr = s.ctr + 1) ∨
      (isSeeding i = true ∧ (effectOf i s).ctr = 0 ∧ (effectOf i s).seeded = true) := by
  cases i with
  | nextInt | nextByte => exact .inr (.inl ⟨rfl, ofNat_ctr_succ s.ctr⟩)
  | seedInt | seedTime | seedHash => exact .inr (.inr ⟨rfl, rfl, rfl⟩)
  | _ => exact .inl rfl

/-- Where the command's checks hold, the counter does not wrap. -/
theorem effectOf_ctr_of_passes {i : Instr} {s : State} (hp : pendingPasses i s = true) :
    (effectOf i s).ctr = s.ctr ∨ (effectOf i s).ctr.toNat = s.ctr.toNat + 1 ∨
      (isSeeding i = true ∧ (effectOf i s).ctr = 0 ∧ (effectOf i s).seeded = true) := by
  refine (effectOf_ctr i s).imp_right (Or.imp_left fun ⟨hdraw, hctr⟩ => ?_)
  have hi : i ≠ .seedTime := by rintro rfl; cases hdraw
  have hroom := counter_of_check hdraw (checkOf_of_pendingPasses hp hi)
  rw [hctr, BitVec.toNat_add]
  exact Nat.mod_eq_of_lt (by simpa using Nat.add_lt_of_lt_sub hroom)

@[simp] theorem setOperand_ctr (r : RegName) (v : Word) (s : State) : (setOperand r v s).ctr = s.ctr := by
  cases r <;> rfl

/-- A bus write moves `CTR` only as a command that it writes and that completes at once. -/
theorem busWrite_ctr {engine : Bool} {off : Offset} {width : Nat} {v : Word} {s t : State}
    (h : busWrite engine off width v s = .next t) :
    t.ctr = s.ctr ∨ t.ctr.toNat = s.ctr.toNat + 1 ∨
      (t.ctr = 0 ∧ t.seeded = true ∧ ∃ i, isSeeding i = true ∧ HostAct.write off width v = actCommand i) := by
  cases busWrite_outcome h with
  | faulted | ignored | recorded | accepted => exact .inl rfl
  | operand => exact .inl (setOperand_ctr _ v s)
  | completed i hact _ hc =>
    exact (effectOf_ctr_of_passes (pendingPasses_accept hc)).imp_right
      (Or.imp_right fun ⟨hi, hctr, hseeded⟩ => ⟨hctr, hseeded, i, hi, hact⟩)

/-- Settles O60: `CTR` moves by the completion of a pending command, whose checks hold in a state of the invariant, or
of one written in this step; no other act but a reset or a loss of power reaches it. -/
theorem counterOnlyGrowsOrRestarts : Obligations.CounterOnlyGrowsOrRestarts := by
  intro s t hs h hpower hreset
  cases step_outcome h with
  | completes i hbusy hlost hpend ht =>
    subst ht
    have hpasses := pendingPasses_of_inv (inv_takeTurn hs) ((takeTurn_lost s).trans hlost)
      ((takeTurn_busy s).trans hbusy) ((takeTurn_pend s).trans hpend)
    have hmove := effectOf_ctr_of_passes hpasses
    rw [takeTurn_ctr] at hmove
    exact hmove.imp_right (Or.imp_right fun ⟨hi, hctr, hseeded⟩ => ⟨hctr, hseeded, i, hi, .inl ⟨hbusy, hpend⟩⟩)
  | idle _ ht => exact .inl (ht ▸ takeTurn_ctr s)
  | acts a rest hhost hact hdoes =>
    cases a with
    | read off width =>
      cases hdoes
      exact .inl ((congrArg State.ctr (busRead_block off width _)).trans (beginAct_ctr s rest))
    | write off width v =>
      have hmove := busWrite_ctr hdoes
      rw [beginAct_ctr] at hmove
      exact hmove.imp_right (Or.imp_right fun ⟨hctr, hseeded, i, hi, hwrite⟩ =>
        ⟨hctr, hseeded, i, hi, .inr ((congrArg List.head? hhost).trans (congrArg some hwrite))⟩)
    | wait | releaseRst =>
      cases hdoes
      exact .inl (beginAct_ctr s rest)
    | reset | assertRst => simp [State.resetsNext, hact, HostAct.isReset] at hreset
    | powerCycle => exact absurd hact hpower

end Sys2Proof.Machine
end

section
namespace Sys2Proof.Machine

/-! ### A draw's message (R161) -/

/-- Settles O9: the two copies of the counter have 1 to 20 digits each and the state 1 to 10. -/
theorem drawMessageLength : Obligations.DrawMessageLength := by
  intro ctr state
  have hctr := length_dec_le ctr.toNat 20 (by decide) (ctr.isLt.trans (by decide))
  have hstate := length_dec_le state.toNat 10 (by decide) (state.isLt.trans (by decide))
  have hctr' := length_dec_pos ctr.toNat
  have hstate' := length_dec_pos state.toNat
  have hlength : (drawMessage ctr state).length =
      (dec ctr.toNat).length + (dec state.toNat).length + (dec ctr.toNat).length := by
    rw [drawMessage, List.length_append, List.length_append]
  exact ⟨rfl, by omega, by omega⟩

/-! ### `rne53` is a nearest number with 53 significant bits, the even one of two (R13) -/

/-- The rounded quotient times the unit is at most half a unit away, and on a tie the quotient is even. -/
theorem roundQuotient_nearest (a e : Nat) (he : 0 < e) :
    2 * ((roundQuotient a e * 2 ^ e : Nat) - a : Int).natAbs ≤ 2 ^ e ∧
      (2 * ((roundQuotient a e * 2 ^ e : Nat) - a : Int).natAbs = 2 ^ e → roundQuotient a e % 2 = 0) := by
  have hunit : 2 ^ e = 2 * 2 ^ (e - 1) := by rw [← pow_succ', Nat.sub_add_cancel he]
  have hdiv := Nat.div_add_mod' a (2 ^ e)
  have hlt := Nat.mod_lt a (Nat.two_pow_pos e)
  unfold roundQuotient
  simp only
  generalize 2 ^ (e - 1) = half at hunit ⊢
  generalize 2 ^ e = unit at hunit hdiv hlt ⊢
  have hnext : (a / unit + 1) * unit = a / unit * unit + unit := Nat.add_one_mul _ _
  split <;> constructor <;> omega

/-- From 53 bits on, the unit of `a` puts `a` between `2 ^ 52` and `2 ^ 53` units. -/
theorem bitLength_bounds {a : Nat} (ha : 2 ^ 53 ≤ a) :
    0 < bitLength a - 53 ∧ 2 ^ (bitLength a - 53 + 52) ≤ a ∧ a < 2 ^ (bitLength a - 53 + 53) := by
  have h0 : a ≠ 0 := by omega
  have hlog : 53 ≤ Nat.log2 a := (Nat.le_log2 h0).2 ha
  have he : bitLength a - 53 + 52 = Nat.log2 a := by rw [bitLength]; omega
  have he' : bitLength a - 53 + 53 = Nat.log2 a + 1 := by omega
  rw [he, he']
  exact ⟨by omega, Nat.log2_self_le h0, Nat.lt_log2_self⟩

theorem rne53_large {n : Int} (h : 2 ^ 53 ≤ n.natAbs) :
    rne53 n = n.sign *
      (roundQuotient n.natAbs (bitLength n.natAbs - 53) * 2 ^ (bitLength n.natAbs - 53) : Nat) :=
  if_neg (not_lt.2 h)

/-- Rounding changes a number by what it changes the magnitude. -/
theorem sign_mul_sub_natAbs (n : Int) (m : Nat) (hn : n ≠ 0) :
    (n.sign * m - n).natAbs = ((m : Int) - n.natAbs).natAbs := by
  obtain h | h := lt_or_gt_of_ne hn
  · rw [Int.sign_eq_neg_one_of_neg h]
    omega
  · rw [Int.sign_eq_one_of_pos h]
    omega

/-- Settles O10: the unit is `2 ^ e` with `e` from the bit length, and the quotient is the rounded one. -/
theorem rne53RoundsToNearestEven : Obligations.Rne53RoundsToNearestEven := by
  refine fun n => ⟨rne53_small n, fun h => ?_⟩
  obtain ⟨he, hlow, hhigh⟩ := bitLength_bounds h
  have hround := rne53_large h
  obtain ⟨hnear, htie⟩ := roundQuotient_nearest n.natAbs _ he
  refine ⟨_, _, hlow, hhigh, le_roundQuotient ?_, roundQuotient_le ?_, hround, ?_⟩
  · rw [Nat.mul_comm, ← pow_add]
    exact hlow
  · rw [Nat.mul_comm, ← pow_add]
    exact hhigh.le
  · rw [hround, sign_mul_sub_natAbs n _ (by omega)]
    exact ⟨hnear, htie⟩

/-! ### The range mapping: the exact band and the widest range (R166, R168) -/

/-- Settles O12: `mapRange_exact`, and `s` is below `2 ^ 32`. -/
theorem mapRangeExactInBand : Obligations.MapRangeExactInBand := by
  intro s lo hi hs hlo hle hhi
  have hexact := mapRange_exact hs hlo hle (by omega)
  obtain ⟨hp, hp'⟩ := product_bounds (r := hi - lo + 1) hs (by omega)
  refine ⟨hexact, ?_⟩
  rw [hexact]
  generalize s * (hi - lo + 1) = p at hp hp'
  constructor <;> omega

/-- A multiple of `2 ^ u` below `2 ^ (u + 53)` is exact. -/
theorem rne53_of_dvd {u : Nat} {n : Int} (hn : n.natAbs < 2 ^ (u + 53)) (hu : 2 ^ u ∣ n.natAbs) : rne53 n = n :=
  le_antisymm (rne53_le hn hu le_rfl) (le_rne53 hn hu le_rfl)

/-- Settles O13: on the widest range both roundings meet multiples of `2 ^ 32`; from `s = 0` so does the only one. -/
theorem mapRangeWidestAndZero : Obligations.MapRangeWidestAndZero := by
  refine ⟨fun s hs => ?_, fun lo hi hlo hle hhi => ?_⟩
  · have hproduct : (s : Int) * (2 ^ 31 - 1 - -(2 ^ 31) + 1) = s * 2 ^ 32 := by norm_num
    have hn1 : rne53 (s * 2 ^ 32) = s * 2 ^ 32 := rne53_of_dvd (u := 32) (by omega) (by omega)
    have hn2 : rne53 (s * 2 ^ 32 + -(2 ^ 31) * 2 ^ 32) = s * 2 ^ 32 + -(2 ^ 31) * 2 ^ 32 :=
      rne53_of_dvd (u := 32) (by omega) (by omega)
    rw [mapRange_eq, hproduct, hn1, hn2]
    omega
  · have hn1 : rne53 ((0 : Nat) * (hi - lo + 1)) = 0 := by simp [rne53_small]
    have hn2 : rne53 (0 + lo * 2 ^ 32) = lo * 2 ^ 32 := by
      rw [zero_add]
      exact rne53_of_dvd (u := 32) (by omega) (by omega)
    rw [mapRange_eq, hn1, hn2]
    omega

end Sys2Proof.Machine
end

section
namespace Sys2Proof.Machine

/-! ### `HASH_BYTE` (R143, R148) -/

/-- The table index of a CRC step, written as a mask. -/
theorem extractLsb'_low_byte (v : Word) : v.extractLsb' 0 8 = BitVec.ofNat 8 (v &&& 0xFF).toNat := by
  apply BitVec.eq_of_toNat_eq
  have hmask : v.toNat &&& 0xFF = v.toNat % 2 ^ 8 := Nat.and_two_pow_sub_one_eq_mod v.toNat 8
  rw [BitVec.extractLsb'_toNat, BitVec.toNat_ofNat, BitVec.toNat_and]
  change _ = (v.toNat &&& 0xFF) % 2 ^ 8
  rw [hmask, Nat.shiftRight_zero, Nat.mod_mod]

/-- Settles O19: the whole next state of a hash command, with the CRC step written out. -/
theorem hashByteFoldsOneByte : Obligations.HashByteFoldsOneByte := by
  refine fun b => ⟨encode_toNat (.hashByte b), genericChecks (.hashByte b), fun s hs => ⟨encode (.hashByte b), ?_⟩⟩
  rw [exec_hash (.hashByte b) s rfl hs, ← extractLsb'_low_byte]
  rfl

/-! ### What commands write, and that they are all or nothing (R23 to R34, R212) -/

/-- Settles O25: the outcomes of presenting a command. -/
theorem commandsAreAllOrNothing : Obligations.CommandsAreAllOrNothing := by
  refine fun i s => ⟨_, exec_eq_present i s, ?_⟩
  obtain ⟨-, hp⟩ | ⟨-, -, hp⟩ | ⟨-, -, -, hp⟩ | ⟨-, -, he, e, -, hp⟩ | ⟨hserves, hb, he, hc, hp⟩ :=
    present_cases i (checkOf i) (complete (effectOf i)) s <;> rw [hp]
  · exact .inl rfl
  · by_cases he : s.errCode = 0
    · rw [raiseError_first s .busy 0 he]
      exact .inr (.inl ⟨he, rfl, errorBits_ne_zero .busy⟩)
    · exact .inl (raiseError_later s .busy 0 he)
  · exact .inl rfl
  · exact .inr (.inl ⟨he, rfl, errorBits_ne_zero e⟩)
  · exact .inr (.inr ⟨⟨hserves, hb, he⟩, hc, rfl, by simpa using he⟩)

/-! What an effect that changed a register says of its command. -/

theorem effectOf_state_ne {i : Instr} {s : State} (h : (effectOf i s).state ≠ s.state) :
    isSeeding i = true ∨ isDraw i = true ∨ i = .restore := by
  cases i with
  | seedInt | seedTime | seedHash => exact .inl rfl
  | nextInt | nextByte => exact .inr (.inl rfl)
  | restore => exact .inr (.inr rfl)
  | nop | hashStart | hashByte | save => exact absurd rfl h

theorem effectOf_incr_ne {i : Instr} {s : State} (h : (effectOf i s).incr ≠ s.incr) : isDraw i = true := by
  cases i with
  | nextInt | nextByte => rfl
  | _ => exact absurd rfl h

theorem effectOf_result_ne {i : Instr} {s : State} (h : (effectOf i s).result ≠ s.result) : isDraw i = true := by
  cases i with
  | nextInt | nextByte => rfl
  | _ => exact absurd rfl h

theorem effectOf_ctr_ne {i : Instr} {s : State} (h : (effectOf i s).ctr ≠ s.ctr) :
    (isDraw i = true ∧ (effectOf i s).ctr = s.ctr + 1) ∨ (isSeeding i = true ∧ (effectOf i s).ctr = 0) :=
  ((effectOf_ctr i s).resolve_left h).imp_right fun ⟨hi, hctr, _⟩ => ⟨hi, hctr⟩

theorem effectOf_saved_ne {i : Instr} {s : State}
    (h : (effectOf i s).saved ≠ s.saved ∨ (effectOf i s).savedValid ≠ s.savedValid) : i = .save := by
  cases i with
  | save => rfl
  | _ => exact h.elim (absurd rfl) (absurd rfl)

theorem effectOf_seeded_ne {i : Instr} {s : State} (h : (effectOf i s).seeded ≠ s.seeded) :
    isSeeding i = true ∧ (effectOf i s).seeded = true := by
  cases i with
  | seedInt | seedTime | seedHash => exact ⟨rfl, rfl⟩
  | _ => exact absurd rfl h

theorem effectOf_hacc_ne {i : Instr} {s : State} (h : (effectOf i s).hacc ≠ s.hacc) : isHash i = true := by
  cases i with
  | hashStart | hashByte => rfl
  | _ => exact absurd rfl h

/-- Settles O24: a command that is not completed changes the error record at most, and a completed one what its effect
changes. -/
theorem commandsWriteOnlyTheirRegisters : Obligations.CommandsWriteOnlyTheirRegisters := by
  intro i s t ht
  obtain ⟨u, hu, houtcome⟩ := commandsAreAllOrNothing i s
  obtain rfl := Host.Outcome.next.inj (hu.symm.trans ht)
  have hrecord : (∃ code info, u = { s with errCode := code, errInfo := info }) ∨
      u = { effectOf i (accept i s) with busy := s.busy } := by
    obtain rfl | ⟨-, hu, -⟩ | ⟨⟨-, hb, -⟩, -, hu, -⟩ := houtcome
    · exact .inl ⟨u.errCode, u.errInfo, rfl⟩
    · exact .inl ⟨_, _, hu⟩
    · exact .inr (hu.trans (by rw [hb]))
  obtain ⟨code, info, rfl⟩ | rfl := hrecord
  · simp
  · exact ⟨effectOf_state_ne, effectOf_incr_ne, effectOf_result_ne, effectOf_ctr_ne, effectOf_saved_ne,
      effectOf_seeded_ne, effectOf_hacc_ne, effectOf_seed i _, effectOf_minReg i _, effectOf_maxReg i _, rfl,
      effectOf_lost i _, effectOf_rst i _, effectOf_timeS i _, effectOf_host i _, effectOf_env i _, effectOf_reads i _,
      effectOf_busFaults i _, effectOf_free i _⟩

/-- Settles O27: an accepted draw is `drawWith`, which reads `STATE`, `CTR` and its range. -/
theorem drawsDependOnGeneratorStateOnly : Obligations.DrawsDependOnGeneratorStateOnly := by
  intro i s s' t t' hi hs hs' hc hc' hstate hctr hrange ht ht'
  have hsame : drawRange i s = drawRange i s' := by
    cases i with
    | nextInt =>
      obtain ⟨hmin, hmax⟩ := hrange rfl
      simp only [drawRange, minValue, maxValue, hmin, hmax]
    | _ => rfl
  obtain rfl := Host.Outcome.next.inj ((exec_draw i s hi hs hc).symm.trans ht)
  obtain rfl := Host.Outcome.next.inj ((exec_draw i s' hi hs' hc').symm.trans ht')
  simp [hstate, hctr, hsame]

end Sys2Proof.Machine
end

section
namespace Sys2Proof.Machine

/-! ### The content of the register words (R61, R64, R65) -/

theorem loHalf_eq_ofNat (d : DWord) : loHalf d = BitVec.ofNat 32 d.toNat := by
  apply BitVec.eq_of_toNat_eq
  rw [loHalf_toNat, BitVec.toNat_ofNat]

theorem hiHalf_eq_ofNat (d : DWord) : hiHalf d = BitVec.ofNat 32 (d.toNat / 2 ^ 32) := by
  rw [← hiHalf_toNat, BitVec.ofNat_toNat, BitVec.setWidth_eq]

/-- The bits of `STATUS` with `BUSY = 0`, as a number (R35). -/
theorem statusOf_idle (seeded savedValid : Bool) (errCode : BitVec 4) :
    statusOf false seeded savedValid errCode =
      BitVec.ofNat 32 (seeded.toNat * 2 + savedValid.toNat * 4 + errCode.toNat * 2 ^ 8) := by
  revert seeded savedValid errCode
  decide

/-- The content of a register word is the block's. -/
theorem regContent_congr (r : RegName) {s t : State} (h : t.block = s.block) : regContent r t = regContent r s := by
  have hblock (u : State) : regContent r u.block = regContent r u := by cases r <;> rfl
  rw [← hblock t, h, hblock]

theorem offset_aligned (r : RegName) : r.offset.toNat % 4 = 0 := by
  cases r <;> rfl

/-- The register words in offset order (R61). -/
def registerMap : List RegName :=
  [.cmd, .status, .seedLo, .seedHi, .min, .max, .resultLo, .resultHi, .state, .saved, .ctrLo, .ctrHi, .incr, .hash,
    .errInfo, .reserved]

/-! ### Reads of an idle block (R61, R65, R69) -/

theorem engineCompletes_of_idle {s : State} (hb : s.busy = false) : engineCompletes s = false := by
  simp [engineCompletes, hb]

/-- A step that reads a word of an idle block that serves returns the word's content. -/
theorem step_read_idle {s : State} {r : RegName} {rest : List HostAct} (h : s.serves = true) (hb : s.busy = false)
    (hhost : s.host = .read r.offset 32 :: rest) :
    step s = .next { beginAct s rest with reads := regContent r s :: s.reads } := by
  rw [step_act hhost (engineCompletes_of_idle hb), hostDoes,
    busRead_idle r.offset _ ((beginAct_serves s rest).trans h) ((beginAct_busy s rest).trans hb) (offset_aligned r),
    ofOffset_offset, regContent_congr r (beginAct_block s rest), beginAct_reads]

/-- What such a step leaves, as far as the next one asks. -/
theorem step_read_idle_keeps {s : State} {r : RegName} {rest : List HostAct} (h : s.serves = true) (hb : s.busy = false)
    (hhost : s.host = .read r.offset 32 :: rest) :
    ∃ t, step s = .next t ∧ t.host = rest ∧ t.reads = regContent r s :: s.reads ∧ t.block = s.block ∧
      t.serves = true ∧ t.busy = false :=
  ⟨_, step_read_idle h hb hhost, rfl, rfl, beginAct_block s rest, (beginAct_serves s rest).trans h,
    (beginAct_busy s rest).trans hb⟩

/-- Settles O33: the map's words are the register words' contents, at their offsets. -/
theorem idleReadsFollowTheMap : Obligations.IdleReadsFollowTheMap := by
  intro s off v rest h hb hhost hmap
  simp only [← loHalf_eq_ofNat, ← hiHalf_eq_ofNat, ← statusOf_idle] at hmap
  rw [← hb] at hmap
  change (off, v) ∈ registerMap.map fun r => (r.offset, regContent r s) at hmap
  obtain ⟨r, -, hr⟩ := List.mem_map.1 hmap
  obtain ⟨rfl, rfl⟩ := Prod.mk.inj hr
  exact step_read_idle h hb hhost

theorem steps_succ {s u : State} (h : step s = .next u) (k : Nat) : steps (k + 1) s = steps k u := by
  rw [steps, h]

/-- Settles O39: both words are read of one block, which the first read leaves as it is. -/
theorem splitReadsJoin : Obligations.SplitReadsJoin := by
  intro s off d rest h hb hmem hhost
  obtain ⟨lo, hi, hlo, hhi, hwords⟩ : ∃ lo hi : RegName, off = lo.offset ∧ off + 4 = hi.offset ∧
      ∀ t : State, t.block = s.block → regContent lo t = loHalf d ∧ regContent hi t = hiHalf d := by
    simp only [List.mem_cons, Prod.mk.injEq, List.not_mem_nil, or_false] at hmem
    obtain ⟨rfl, rfl⟩ | ⟨rfl, rfl⟩ | ⟨rfl, rfl⟩ := hmem
    · exact ⟨.seedLo, .seedHi, rfl, rfl, fun t ht => ⟨regContent_congr .seedLo ht, regContent_congr .seedHi ht⟩⟩
    · exact ⟨.resultLo, .resultHi, rfl, rfl, fun t ht => ⟨regContent_congr .resultLo ht, regContent_congr .resultHi ht⟩⟩
    · exact ⟨.ctrLo, .ctrHi, rfl, rfl, fun t ht => ⟨regContent_congr .ctrLo ht, regContent_congr .ctrHi ht⟩⟩
  rw [hhi, hlo] at hhost
  obtain ⟨u, hu, huhost, hureads, hublock, huserves, hubusy⟩ := step_read_idle_keeps h hb hhost
  obtain ⟨t, ht, hthost, htreads, htblock, -, -⟩ := step_read_idle_keeps huserves hubusy huhost
  obtain ⟨hlow, -⟩ := hwords s rfl
  obtain ⟨-, hhigh⟩ := hwords u hublock
  refine ⟨t, loHalf d, hiHalf d, (steps_succ hu 1).trans (steps_succ ht 0), ?_, hthost, htblock.trans hublock, ?_⟩
  · rw [htreads, hureads, hlow, hhigh]
  · rw [loHalf_toNat, hiHalf_toNat, Nat.div_add_mod']

/-! ### Writes of operands (R64, R66) -/

/-- Two words joined, as a number (R64). -/
theorem append_eq_ofNat (hi lo : Word) : (hi ++ lo : DWord) = BitVec.ofNat 64 (hi.toNat * 2 ^ 32 + lo.toNat) := by
  have hhi := hi.isLt
  have hlo := lo.isLt
  apply BitVec.eq_of_toNat_eq
  rw [BitVec.toNat_append, ← Nat.shiftLeft_add_eq_or_of_lt hlo, Nat.shiftLeft_eq, BitVec.toNat_ofNat]
  omega

theorem setLoHalf_eq_ofNat (v : Word) (d : DWord) :
    setLoHalf v d = BitVec.ofNat 64 (d.toNat / 2 ^ 32 * 2 ^ 32 + v.toNat) := by
  rw [setLoHalf, append_eq_ofNat, hiHalf_toNat]

theorem setHiHalf_eq_ofNat (v : Word) (d : DWord) :
    setHiHalf v d = BitVec.ofNat 64 (v.toNat * 2 ^ 32 + d.toNat % 2 ^ 32) := by
  rw [setHiHalf, append_eq_ofNat, loHalf_toNat]

/-- Settles O35: the four operand words set their register; the other words but `CMD` ignore a write. -/
theorem operandWritesSetTheirRegister : Obligations.OperandWritesSetTheirRegister := by
  refine fun engine v s => ⟨fun h hb => ?_, fun off hoff => ?_⟩
  · rw [← setLoHalf_eq_ofNat, ← setHiHalf_eq_ofNat]
    have operand (r : RegName) (hr : r ∈ writableWords) (hcmd : r ≠ .cmd) :=
      busWrite_operand engine r v s h hb hr hcmd
    exact ⟨operand .seedLo (by decide) nofun, operand .seedHi (by decide) nofun, operand .min (by decide) nofun,
      operand .max (by decide) nofun⟩
  · change off ∈ (registerMap.filter (· ∉ writableWords)).map RegName.offset at hoff
    obtain ⟨r, hr, rfl⟩ := List.mem_map.1 hoff
    have hreadOnly : r ∉ writableWords := by simpa using List.of_mem_filter hr
    obtain ⟨-, hw⟩ | ⟨hmem, -⟩ := regWrite_cases engine r v s (by rintro rfl; exact hreadOnly (by decide))
    · rw [busWrite_offset, hw]
    · exact absurd hmem hreadOnly

/-! ### Reads while a command is pending (R68) -/

theorem busRead_legal (off : Offset) (s : State) (ha : off.toNat % 4 = 0) :
    busRead off 32 s = { s with
      reads := readWord (RegName.ofOffset off) s :: s.reads
      free := if readsFree s then s.free + 1 else s.free } :=
  if_pos ((legalAccess_iff off 32).2 ⟨ha, rfl⟩)

/-- The words R68 lets a read return exactly while a command is pending. -/
theorem readWord_busy {r : RegName} {s : State} (h : s.serves = true) (hb : s.busy = true)
    (hr : unspecifiedWhileBusy r = false) (hstatus : r ≠ .status) : readWord r s = regContent r s := by
  obtain ⟨hrst, hlost⟩ := (serves_iff s).1 h
  simp [readWord, hrst, hlost, hb, hr, hstatus]

theorem readWord_status_busy {s : State} (h : s.serves = true) (hb : s.busy = true) :
    readWord .status s = busyStatus s := by
  obtain ⟨hrst, hlost⟩ := (serves_iff s).1 h
  simp [readWord, hrst, hlost, hb, unspecifiedWhileBusy]

/-- The bits of `STATUS` (R35). -/
theorem statusOf_bits (busy seeded savedValid : Bool) (errCode : BitVec 4) :
    let w := statusOf busy seeded savedValid errCode
    w.getLsbD 0 = busy ∧ w.extractLsb' 8 4 = errCode ∧ w.getLsbD 1 = seeded ∧ w.getLsbD 2 = savedValid ∧
      w.extractLsb' 3 5 = 0 ∧ w.extractLsb' 12 20 = 0 := by
  revert busy seeded savedValid errCode
  decide

/-- Settles O37: `STATUS` chooses its two flags, every other specified word is its content, and the read draws a free
value's number. -/
theorem readsWhileBusy : Obligations.ReadsWhileBusy := by
  intro s off h hb ha
  have hrst := rst_of_serves h
  have hfree : readsFree s = true := by simp [readsFree, hrst, hb]
  have hread (r : RegName) (hr : unspecifiedWhileBusy r = false) (hstatus : r ≠ .status) :
      readWord r s = regContent r s := readWord_busy h hb hr hstatus
  refine ⟨readWord (RegName.ofOffset off) s, ?_, ?_, ?_, ?_, ?_, ?_, ?_, ?_⟩
  · rw [busRead_legal off s ha, hfree, if_pos rfl]
  · rintro rfl
    obtain ⟨hbusy, herr, hseeded, hvalid, hlow, hhigh⟩ := statusOf_bits s.busy
      (if Config.seededReadsAfter s.free then (afterPending s).seeded else s.seeded)
      (if Config.savedValidReadsAfter s.free then (afterPending s).savedValid else s.savedValid) s.errCode
    have hword : readWord (RegName.ofOffset 0x04) s = busyStatus s := readWord_status_busy h hb
    rw [hword, busyStatus, hseeded, hvalid]
    exact ⟨hbusy.trans hb, herr, (ite_eq_or_eq _ _ _).symm, (ite_eq_or_eq _ _ _).symm, hlow, hhigh⟩
  · rintro rfl
    exact (hread .seedLo rfl nofun).trans (loHalf_eq_ofNat s.seed)
  · rintro rfl
    exact (hread .seedHi rfl nofun).trans (hiHalf_eq_ofNat s.seed)
  · rintro rfl
    exact hread .min rfl nofun
  · rintro rfl
    exact hread .max rfl nofun
  · rintro rfl
    exact hread .errInfo rfl nofun
  · rintro (rfl | rfl)
    · exact hread .cmd rfl nofun
    · exact hread .reserved rfl nofun

/-! ### A held reset, and acts that change nothing of the block (R65, R78, R240) -/

theorem readWord_held (r : RegName) {s : State} (h : s.rst = true) : readWord r s = 0 := if_pos h

theorem readsFree_held {s : State} (h : s.rst = true) : readsFree s = false := by simp [readsFree, h]

/-- A block that does not serve ignores every aligned 32-bit write (R240; log entry 23). -/
theorem busWrite_unserved (engine : Bool) (off : Offset) (v : Word) (s : State) (h : s.serves = false)
    (ha : off.toNat % 4 = 0) : busWrite engine off 32 v s = .next s := by
  obtain ⟨t, ht⟩ := busWrite_next engine off 32 v s
  have hlegal := (legalAccess_iff off 32).2 ⟨ha, rfl⟩
  have hno {p : Prop} (hserves : s.serves = true) : p := absurd (h.symm.trans hserves) Bool.false_ne_true
  rw [ht]
  cases busWrite_outcome ht with
  | faulted hillegal => exact absurd (hillegal.symm.trans hlegal) Bool.false_ne_true
  | ignored => rfl
  | recorded _ _ _ hserves => exact hno hserves
  | operand _ hserves => exact hno hserves
  | accepted _ _ hs => exact hno hs.serves
  | completed _ _ hs => exact hno hs.serves

/-- Settles O42: the gate ignores the write, the read is of 0, and the poll sees no pending command. -/
theorem heldResetIgnoresAccesses : Obligations.HeldResetIgnoresAccesses := by
  refine fun engine off v s h ha => ⟨?_, ?_, congrArg Host.Outcome.next (pollBusy_done s (.inl h))⟩
  · exact busWrite_unserved engine off v s ((not_serves_iff s).2 (.inl h)) ha
  · rw [hostDoes, busRead_legal off s ha, readWord_held _ h, readsFree_held h]
    rfl

/-- Settles O38: a read writes the record of words read, a poll the host's program, both the count of free values. -/
theorem readsHaveNoSideEffect : Obligations.ReadsHaveNoSideEffect := by
  rintro engine off width s t (h | h) <;> cases h
  · exact ⟨busRead_block off width s, busRead_rst off width s, busRead_timeS off width s, busRead_env off width s⟩
  · exact ⟨rfl, rfl, rfl, rfl⟩

/-- Settles O41: both events put the block at its reset values, and keep what is not the block's. -/
theorem resetDiscardsPendingCommand : Obligations.ResetDiscardsPendingCommand :=
  fun _ _ => ⟨⟨_, rfl, rfl, rfl, rfl, rfl, rfl, rfl, rfl⟩, ⟨_, rfl, rfl, rfl, rfl⟩⟩

end Sys2Proof.Machine
end

section
namespace Sys2Proof.Machine

/-! ### The bus faults and the host's program, step by step (R63, R217, R228) -/

/-- A command's completion, a rejection or an operand write records no bus fault; only an illegal access does. -/
theorem busWrite_busFaults {engine : Bool} {off : Offset} {width : Nat} {v : Word} {s t : State}
    (h : busWrite engine off width v s = .next t) :
    t.busFaults = if legalAccess off width then s.busFaults else off :: s.busFaults := by
  have legal_of_command {i : Instr} (hact : HostAct.write off width v = actCommand i) :
      legalAccess off width = true := by
    obtain ⟨rfl, rfl, -⟩ := HostAct.write.inj hact
    rfl
  cases busWrite_outcome h with
  | faulted hlegal => rw [hlegal]; rfl
  | ignored hlegal | recorded _ _ hlegal => rw [hlegal]; rfl
  | operand hlegal => rw [hlegal]; cases RegName.ofOffset off <;> rfl
  | accepted i hact => rw [legal_of_command hact]; rfl
  | completed i hact => rw [legal_of_command hact]; simp

theorem busRead_busFaults (off : Offset) (width : Nat) (s : State) :
    (busRead off width s).busFaults = if legalAccess off width then s.busFaults else off :: s.busFaults := by
  unfold busRead; split <;> rfl

theorem suffix_ite_cons {α : Type} (p : Prop) [Decidable p] (x : α) (xs : List α) :
    xs <:+ if p then xs else x :: xs := by
  split
  · exact List.suffix_rfl
  · exact List.suffix_cons x xs

theorem hostDoes_busFaults {engine : Bool} {a : HostAct} {s t : State} (h : hostDoes engine a s = .next t) :
    s.busFaults <:+ t.busFaults := by
  cases a with
  | read off width =>
    cases h
    exact busRead_busFaults off width s ▸ suffix_ite_cons _ off _
  | write off width v => exact busWrite_busFaults h ▸ suffix_ite_cons _ off _
  | _ =>
    cases h
    exact List.suffix_rfl

/-- No step removes a recorded bus fault. -/
theorem step_busFaults {s t : State} (h : step s = .next t) : s.busFaults <:+ t.busFaults := by
  cases step_outcome h with
  | completes i _ _ _ ht =>
    subst ht
    simp
  | idle _ ht => simp [ht]
  | acts a rest _ _ hdoes => exact beginAct_busFaults s rest ▸ hostDoes_busFaults hdoes

/-- Settles O34: an illegal access adds its offset to the record, and no step takes from it. -/
theorem illegalAccessIsABusFault : Obligations.IllegalAccessIsABusFault := by
  refine ⟨fun s t => step_busFaults, fun engine off width v s h => ?_⟩
  have hillegal : legalAccess off width = false := by simpa [legalAccess, imp_iff_not_or] using h
  exact ⟨congrArg Host.Outcome.next (busRead_illegal off width s hillegal),
    busWrite_illegal engine off width v s hillegal⟩

@[simp] theorem setOperand_host (r : RegName) (v : Word) (s : State) : (setOperand r v s).host = s.host := by
  cases r <;> rfl

/-- An act leaves the rest of the program to do, a poll that sees `BUSY = 1` the `WAIT` as well. -/
theorem hostDoes_host {engine : Bool} {a : HostAct} {s t : State} (h : hostDoes engine a s = .next t) :
    t.host = s.host ∨ (a = .wait ∧ t.host = .wait :: s.host) := by
  cases a with
  | read off width =>
    cases h
    exact .inl (busRead_host off width s)
  | write off width v =>
    left
    cases busWrite_outcome h with
    | operand => exact setOperand_host _ v s
    | completed i => simp
    | _ => rfl
  | wait =>
    cases h
    exact (ite_eq_or_eq (seenBusy s = true) (HostAct.wait :: s.host) s.host).symm.imp_right fun hw => ⟨rfl, hw⟩
  | _ =>
    cases h
    exact .inl rfl

/-- The host's program only gets shorter. -/
theorem step_host {s t : State} (h : step s = .next t) : t.host <:+ s.host := by
  cases step_outcome h with
  | completes i _ _ _ ht =>
    subst ht
    simp
  | idle _ ht => simp [ht]
  | acts a rest hhost _ hdoes =>
    obtain ht | ⟨rfl, ht⟩ := hostDoes_host hdoes <;> rw [ht, beginAct_host, hhost]
    exact List.suffix_cons a rest

/-! ### Clean runs (R228) -/

/-- The host's program holds neither an event on `RST` that resets the block nor a loss of power. -/
def KeepsBlock (acts : List HostAct) : Prop := .reset ∉ acts ∧ .assertRst ∉ acts ∧ .powerCycle ∉ acts

theorem KeepsBlock.of_suffix {acts acts' : List HostAct} (h : KeepsBlock acts) (hsuffix : acts' <:+ acts) :
    KeepsBlock acts' := by
  obtain ⟨hreset, hassert, hpower⟩ := h
  exact ⟨mt (hsuffix.mem ·) hreset, mt (hsuffix.mem ·) hassert, mt (hsuffix.mem ·) hpower⟩

theorem exists_host_of_actNow {s : State} {a : HostAct} (h : s.actNow = some a) :
    engineCompletes s = false ∧ ∃ rest, s.host = a :: rest := by
  unfold State.actNow at h
  split at h
  · cases h
  · exact ⟨Bool.eq_false_of_not_eq_true ‹_›, List.head?_eq_some_iff.1 h⟩

theorem step_of_actNow {s : State} {a : HostAct} (h : s.actNow = some a) :
    ∃ rest, step s = hostDoes (engineActs s) a (beginAct s rest) := by
  obtain ⟨hc, rest, hhost⟩ := exists_host_of_actNow h
  exact ⟨rest, step_act hhost hc⟩

/-- A host whose program holds no such act does none of them now. -/
theorem KeepsBlock.actNow {s : State} (h : KeepsBlock s.host) : s.actNow ≠ some .powerCycle ∧ s.resetsNext = false := by
  obtain ⟨hreset, hassert, hpower⟩ := h
  have hmem {a : HostAct} (ha : s.actNow = some a) : a ∈ s.host := by
    obtain ⟨-, rest, hhost⟩ := exists_host_of_actNow ha
    exact hhost ▸ List.mem_cons_self
  refine ⟨fun ha => hpower (hmem ha), ?_⟩
  cases ha : s.actNow with
  | none => simp [State.resetsNext, ha]
  | some a =>
    rw [State.resetsNext, ha, Option.any_some]
    cases a with
    | reset => exact absurd (hmem ha) hreset
    | assertRst => exact absurd (hmem ha) hassert
    | _ => rfl

/-- In such a run a state that is not clean is followed by one that is not clean. -/
theorem clean_of_step {s t : State} (hkeeps : KeepsBlock s.host) (h : step s = .next t) (ht : t.Clean) : s.Clean := by
  obtain ⟨hpower, hreset⟩ := hkeeps.actNow
  obtain ⟨hcode, hfaults⟩ := ht
  refine ⟨?_, List.suffix_nil.1 (hfaults ▸ step_busFaults h)⟩
  by_contra he
  obtain ⟨hsame, -⟩ := step_errored_sameErrorRecord h he hpower hreset
  exact he (hsame.symm.trans hcode)

/-- A run of `k + 1` steps takes one step first. -/
theorem steps_succ_next {k : Nat} {s t : State} (h : steps (k + 1) s = .next t) :
    ∃ u, step s = .next u ∧ steps k u = .next t := by
  rw [steps] at h
  split at h
  · exact ⟨_, ‹_›, h⟩
  · cases h
  · cases h

theorem keepsBlock_of_steps {k : Nat} {s t : State} (hkeeps : KeepsBlock s.host) (h : steps k s = .next t) :
    KeepsBlock t.host := by
  induction k generalizing s with
  | zero =>
    cases h
    exact hkeeps
  | succ k ih =>
    obtain ⟨u, hu, ht⟩ := steps_succ_next h
    exact ih (hkeeps.of_suffix (step_host hu)) ht

theorem clean_of_steps {k : Nat} {s t : State} (hkeeps : KeepsBlock s.host) (h : steps k s = .next t) (ht : t.Clean) :
    s.Clean := by
  induction k generalizing s with
  | zero =>
    cases h
    exact ht
  | succ k ih =>
    obtain ⟨u, hu, hrest⟩ := steps_succ_next h
    exact clean_of_step hkeeps hu (ih (hkeeps.of_suffix (step_host hu)) hrest)

/-- Settles O45: neither record is cleared by a step of such a run. -/
theorem cleanEndMeansCleanRun : Obligations.CleanEndMeansCleanRun :=
  fun _ _ _ _ _ hreset hassert hpower hu ht => clean_of_steps (keepsBlock_of_steps ⟨hreset, hassert, hpower⟩ hu) ht

/-! ### Acts that break no hazard (R245, R246) -/

theorem errorBits_eq_two {e : ErrorCode} (h : e.bits = 2) : e = .busy := by
  cases e with
  | busy => rfl
  | _ => exact absurd h (by decide)

@[simp] theorem setOperand_reads (r : RegName) (v : Word) (s : State) : (setOperand r v s).reads = s.reads := by
  cases r <;> rfl

theorem busWrite_reads {engine : Bool} {off : Offset} {width : Nat} {v : Word} {s t : State}
    (h : busWrite engine off width v s = .next t) : t.reads = s.reads := by
  cases busWrite_outcome h with
  | operand => exact setOperand_reads _ v s
  | completed i => simp
  | _ => rfl

/-- Code 2 is recorded by a write to `CMD` or an operand register while a command is pending, and by no other. -/
theorem busWrite_code_two {engine : Bool} {off : Offset} {width : Nat} {v : Word} {s t : State}
    (h : busWrite engine off width v s = .next t) (hsafe : ¬(s.busy = true ∧ RegName.ofOffset off ∈ writableWords))
    (he : s.errCode ≠ 2) : t.errCode ≠ 2 := by
  cases busWrite_outcome h with
  | recorded e _ _ _ _ hword hbusy => exact fun h2 => hsafe ⟨hbusy.1 (errorBits_eq_two h2), hword⟩
  | operand => exact (setOperand_errCode _ v s).trans_ne he
  | completed i => simpa using he
  | _ => exact he

/-- A read other than of `STATUS` returns the content, unless `RST` is asserted, the state is lost, or a command is
pending and the word then unspecified (R65, R68). -/
theorem readWord_eq_regContent {r : RegName} {s : State} (h : s.serves = true) (hr : r ≠ .status)
    (hspecified : ¬(s.busy = true ∧ unspecifiedWhileBusy r = true)) : readWord r s = regContent r s := by
  cases hb : s.busy with
  | false => exact readWord_idle r s h hb
  | true => exact readWord_busy h hb (Bool.eq_false_of_not_eq_true fun hu => hspecified ⟨hb, hu⟩) hr

/-- Such a read puts the content into the record of words read. -/
theorem busRead_reads_content {off : Offset} {s : State} (h : s.serves = true) (ha : off.toNat % 4 = 0)
    (hstatus : off ≠ 0x04) (hspecified : ¬(s.busy = true ∧ unspecifiedWhileBusy (RegName.ofOffset off) = true)) :
    (busRead off 32 s).reads = regContent (RegName.ofOffset off) s :: s.reads := by
  have hr : RegName.ofOffset off ≠ .status := fun hr => hstatus (by rw [← offset_ofOffset off ha, hr]; rfl)
  rw [busRead_legal off s ha, readWord_eq_regContent h hr hspecified]

theorem read_of_nextActSafe {s : State} {off : Offset} {width : Nat} {rest : List HostAct}
    (hsafe : s.nextActSafe = true) (hhost : s.host = .read off width :: rest) :
    legalAccess off width = true ∧ s.lost = false ∧
      ¬(s.busy = true ∧ unspecifiedWhileBusy (RegName.ofOffset off) = true) := by
  simp only [State.nextActSafe, hhost, Bool.and_eq_true, Bool.not_eq_true', ← Bool.not_eq_true] at hsafe
  obtain ⟨⟨hlegal, hlost⟩, hspecified⟩ := hsafe
  exact ⟨hlegal, Bool.eq_false_of_not_eq_true hlost, hspecified⟩

theorem write_of_nextActSafe {s : State} {off : Offset} {width : Nat} {v : Word} {rest : List HostAct}
    (hsafe : s.nextActSafe = true) (hhost : s.host = .write off width v :: rest) :
    legalAccess off width = true ∧ ¬(s.busy = true ∧ RegName.ofOffset off ∈ writableWords) := by
  simp only [State.nextActSafe, hhost, Bool.and_eq_true, Bool.not_eq_true', ← Bool.not_eq_true, List.contains_iff_mem]
    at hsafe
  obtain ⟨⟨hlegal, -⟩, hgate⟩ := hsafe
  exact ⟨hlegal, hgate⟩

/-- Settles O46: a safe access is legal; a safe write does not meet the gate's code 2, and a safe read is of a specified
word. -/
theorem safeActsMeetNoHazard : Obligations.SafeActsMeetNoHazard := by
  intro s t hsafe h
  cases step_outcome h with
  | completes i _ _ _ ht =>
    subst ht
    simp
  | idle _ ht => simp [ht]
  | acts a rest hhost _ hdoes =>
    have hfaults := beginAct_busFaults s rest
    have hcode := beginAct_errCode s rest
    have hreads := beginAct_reads s rest
    cases a with
    | read off width =>
      obtain ⟨hlegal, hlost, hspecified⟩ := read_of_nextActSafe hsafe hhost
      obtain ⟨ha, rfl⟩ := (legalAccess_iff off width).1 hlegal
      cases hdoes
      refine ⟨?_, ?_, .inr ⟨off, rest, hhost, fun hrst hstatus => ?_⟩⟩
      · rw [busRead_busFaults, hlegal, if_pos rfl, hfaults]
      · have hsame := congrArg State.errCode (busRead_block off 32 (beginAct s rest))
        exact (hsame.trans hcode).trans_ne
      · have hserves := (beginAct_serves s rest).trans ((serves_iff s).2 ⟨hrst, hlost⟩)
        rw [← beginAct_busy s rest] at hspecified
        rw [busRead_reads_content hserves ha hstatus hspecified, regContent_congr _ (beginAct_block s rest), hreads]
    | write off width v =>
      obtain ⟨hlegal, hgate⟩ := write_of_nextActSafe hsafe hhost
      rw [← beginAct_busy s rest] at hgate
      refine ⟨?_, hcode ▸ busWrite_code_two hdoes hgate, .inl ((busWrite_reads hdoes).trans hreads)⟩
      rw [busWrite_busFaults hdoes, hlegal, if_pos rfl, hfaults]
    | wait | releaseRst =>
      cases hdoes
      exact ⟨hfaults, hcode.trans_ne, .inl hreads⟩
    | reset | assertRst =>
      cases hdoes
      exact ⟨hfaults, fun _ => (by decide : (0 : BitVec 4) ≠ 2), .inl hreads⟩
    | powerCycle => simp [State.nextActSafe, hhost] at hsafe

/-! ### The loss of power (R227, R243) -/

/-- What a loss of power leaves in the block is the free values of the next numbers. -/
theorem loseState_block {s s' : State} (h : s.free = s'.free) : (loseState s).block = (loseState s').block := by
  simp [loseState, State.block, h]

theorem exec_unserved (i : Instr) (s : State) (h : s.serves = false) : exec i s = .next s := by
  rw [exec_eq_present, present, whenCommandable_held s _ h]

/-- On a block whose state is lost, an act that neither loses the power again nor resets changes no register. -/
theorem hostDoes_lost_block {engine : Bool} {a : HostAct} {s t : State} (h : hostDoes engine a s = .next t)
    (hlost : s.lost = true) (hpower : a ≠ .powerCycle) (hreset : a.isReset = false) : t.block = s.block := by
  cases a with
  | read off width =>
    cases h
    exact busRead_block off width s
  | write off width v =>
    have hno {p : Prop} (hserves : s.serves = true) : p := by
      rw [(not_serves_iff s).2 (.inr hlost)] at hserves
      cases hserves
    cases busWrite_outcome h with
    | faulted | ignored => rfl
    | recorded _ _ _ hserves => exact hno hserves
    | operand _ hserves => exact hno hserves
    | accepted _ _ hs => exact hno hs.serves
    | completed _ _ hs => exact hno hs.serves
  | wait | releaseRst =>
    cases h
    rfl
  | reset | assertRst => cases hreset
  | powerCycle => exact absurd rfl hpower

/-- A step from a block whose state is lost changes no register of it, unless it resets the block or loses the power
again. -/
theorem step_lost_block {s t : State} (h : step s = .next t) (hlost : s.lost = true)
    (hpower : s.actNow ≠ some .powerCycle) (hreset : s.resetsNext = false) : t.block = s.block := by
  cases step_outcome h with
  | completes i _ hlost' => exact absurd (hlost'.symm.trans hlost) Bool.false_ne_true
  | idle _ ht => rw [ht, takeTurn_block]
  | acts a rest _ hact hdoes =>
    have hne : a.isReset = false := by simpa [State.resetsNext, hact] using hreset
    exact (hostDoes_lost_block hdoes ((beginAct_lost s rest).trans hlost) (fun hp => hpower (hp ▸ hact)) hne).trans
      (beginAct_block s rest)

/-- A step that resets the block ends the loss of its state. -/
theorem lost_of_resetsNext {s t : State} (h : step s = .next t) (hreset : s.resetsNext = true) : t.lost = false := by
  obtain ⟨a, ha, hr⟩ := (Option.any_eq_true _ _).1 hreset
  obtain ⟨rest, hstep⟩ := step_of_actNow ha
  rw [hstep] at h
  cases a with
  | reset | assertRst =>
    cases h
    rfl
  | _ => cases hr

theorem lost_of_powerCycle {s t : State} (h : step s = .next t) (hpower : s.actNow = some .powerCycle) :
    t.lost = true := by
  obtain ⟨rest, hstep⟩ := step_of_actNow hpower
  rw [hstep] at h
  cases h
  rfl

/-- Settles O47: a loss of power leaves the next free values; the gate then lets nothing through, and of the host's acts
only an event on `RST` or another loss of power reaches the block. -/
theorem powerLossNeedsReset : Obligations.PowerLossNeedsReset := by
  refine ⟨fun engine s s' hfree => ?_, fun s hlost => ⟨fun engine off v ha => ?_, fun i => ?_,
    fun t h htlost hpower => ?_, fun engine => ?_⟩, fun s t h hlost htlost => ?_⟩
  · exact ⟨_, _, rfl, rfl, rfl, loseState_block hfree, rfl, rfl, rfl, rfl, rfl, rfl⟩
  · exact busWrite_unserved engine off v s ((not_serves_iff s).2 (.inr hlost)) ha
  · exact exec_unserved i s ((not_serves_iff s).2 (.inr hlost))
  · refine step_lost_block h hlost hpower (Bool.eq_false_of_not_eq_true fun hreset => ?_)
    exact Bool.false_ne_true ((lost_of_resetsNext h hreset).symm.trans htlost)
  · exact ⟨_, rfl, rfl, rfl⟩
  · by_contra hreset
    have hpower : s.actNow ≠ some .powerCycle := fun hp =>
      Bool.false_ne_true (htlost.symm.trans (lost_of_powerCycle h hp))
    have hsame := congrArg State.lost (step_lost_block h hlost hpower (Bool.eq_false_of_not_eq_true hreset))
    exact Bool.false_ne_true (htlost.symm.trans (hsame.trans hlost))

end Sys2Proof.Machine
end

section
namespace Sys2Proof.Machine

/-! ### Acceptance and completion, apart and as one (R70) -/

/-- A command that an idle block does not take leaves it as it is. -/
theorem present_unready {i : Instr} {check : State → Option ErrorCode} {k : State → State} {s : State}
    (hb : s.busy = false) (hs : ¬s.Ready) : present i check k s = s := by
  obtain ⟨-, hp⟩ | ⟨-, hb', -⟩ | ⟨-, -, -, hp⟩ | ⟨h, -, he, -⟩ | ⟨h, -, he, -⟩ := present_cases i check k s
  · exact hp
  · exact absurd (hb.symm.trans hb') Bool.false_ne_true
  · exact hp
  · exact absurd ⟨h, hb, he⟩ hs
  · exact absurd ⟨h, hb, he⟩ hs

theorem acceptOnly_rejected {i : Instr} {s : State} {e : ErrorCode} (hs : s.Ready) (hc : checkOf i s = some e) :
    acceptOnly i s = { s with errCode := e.bits, errInfo := encode i } := by
  obtain ⟨h, hb, he⟩ := hs
  simp [acceptOnly, present, whenCommandable_open, h, hb, he, hc, raiseError_first]

/-- While a command is pending, what stands behind the gate does not matter. -/
theorem present_busy (i : Instr) (check : State → Option ErrorCode) (k k' : State → State) {s : State}
    (hb : s.busy = true) : present i check k s = present i check k' s := by
  cases h : s.serves with
  | false => rw [present, present, whenCommandable_held s _ h, whenCommandable_held s _ h]
  | true => rw [present, present, whenCommandable_busy s _ h hb, whenCommandable_busy s _ h hb]

/-- Settles O49: an idle block ignores the command, rejects it by its check, or accepts it. -/
theorem acceptThenCompleteIsExec : Obligations.AcceptThenCompleteIsExec := by
  intro i s hb
  have hno {p : Prop} {t : State} (ht : t.busy = s.busy) (h : t.busy = true) : p :=
    absurd ((ht.trans hb).symm.trans h) Bool.false_ne_true
  by_cases hs : s.Ready
  · cases hc : checkOf i s with
    | none =>
      rw [acceptOnly_ready i s hs hc]
      obtain ⟨h, -, he⟩ := hs
      exact ⟨fun _ => (completePending_of_pend rfl).trans (exec_accepted i s h hb he hc).symm, nofun, fun _ => rfl⟩
    | some e =>
      rw [acceptOnly_rejected hs hc]
      exact ⟨hno rfl, fun _ => exec_rejected_of_ready hs hc, hno rfl⟩
  · have hsame : acceptOnly i s = s := present_unready hb hs
    rw [hsame, exec_eq_present, present_unready hb hs]
    exact ⟨hno rfl, fun _ => rfl, hno rfl⟩

/-! ### A step that writes `CMD`, and one that completes (R70) -/

theorem hostDoes_command (engine : Bool) {w : Word} {i : Instr} (hd : decode w = .ok i) (s : State) :
    hostDoes engine (.write 0x00 32 w) s = if engine then exec i s else .next (acceptOnly i s) :=
  (busWrite_offset engine .cmd w s).trans (writeCommand_ok engine w i s hd)

/-- Settles O48: the host's act is the write; while a command is pending, acceptance alone and the whole command are
rejected alike. -/
theorem stepRunsTheDecodedCommand : Obligations.StepRunsTheDecodedCommand := by
  intro s w i rest hhost hd hc
  rw [step_act hhost hc, hostDoes_command _ hd]
  refine ⟨fun h => ?_, fun h => by rw [h]; rfl⟩
  cases hengine : engineActs s with
  | true => rfl
  | false =>
    have hb : (beginAct s rest).busy = true := (beginAct_busy s rest).trans (h.resolve_left (by simp [hengine]))
    exact congrArg Host.Outcome.next (present_busy i (checkOf i) id (complete (effectOf i)) hb) |>.trans
      (exec_eq_present i _).symm

theorem decode_of_decodeTableWord {w : Nat} {i : Instr} (h : decodeTableWord 32 w = some i) :
    decode (BitVec.ofNat 32 (w % 2 ^ 32)) = .ok i := by
  rw [decodeTableWord, if_pos le_rfl] at h
  split at h
  · cases h
    assumption
  · cases h

/-- Settles O56: the placed turn is the engine's where the block is idle, and the host's where a command is pending. -/
theorem fetchWordRunsNext : Obligations.FetchWordRunsNext := by
  intro s w i h
  have hd := decode_of_decodeTableWord h
  have hengine : engineActs (s.withFetchWord 32 w) = !s.busy := rfl
  have hc : engineCompletes (s.withFetchWord 32 w) = false := by
    rw [engineCompletes, hengine]
    cases hb : s.busy <;> simp [State.withFetchWord, hb]
  obtain ⟨hruns, -⟩ := stepRunsTheDecodedCommand (s.withFetchWord 32 w) _ i s.host rfl hd hc
  refine hruns ?_
  rw [hengine]
  cases hb : s.busy with
  | false => exact .inl rfl
  | true => exact .inr hb

/-- A completion is a matter of the block alone. -/
theorem completeEffect_block_congr (i : Instr) {s t : State} (h : t.block = s.block) :
    (complete (effectOf i) t).block = (complete (effectOf i) s).block := by
  have hblock (u : State) : (complete (effectOf i) u).block = (complete (effectOf i) u.block).block := by
    cases i <;> rfl
  rw [hblock t, h, ← hblock]

theorem visible_of_block_eq {s t : State} (h : t.block = s.block) : t.visible = s.visible :=
  congrArg (fun b : State => { b with pend := 0, pendT := 0 }) h

/-- Settles O50: the step is the completion, on a block that the turn does not touch. -/
theorem engineCompletesThePendingCommand : Obligations.EngineCompletesThePendingCommand := by
  intro s i h hpend
  have hstep := (step_engine h).trans (completePending_of_pend ((takeTurn_pend s).trans hpend))
  refine ⟨_, hstep, rfl, ?_, ?_, visible_of_block_eq (completeEffect_block_congr i (takeTurn_block s))⟩
  · simp
  · simp

end Sys2Proof.Machine
end

section
namespace Sys2Proof.Machine

/-! ### Runs -/

/-- Some number of steps leads from `s` to `t`. -/
def Reaches (s t : State) : Prop := ∃ k, steps k s = .next t

theorem steps_add {j k : Nat} {s t u : State} (hj : steps j s = .next t) (hk : steps k t = .next u) :
    steps (k + j) s = .next u := by
  induction j generalizing s with
  | zero =>
    cases hj
    exact hk
  | succ j ih =>
    obtain ⟨v, hv, hrest⟩ := steps_succ_next hj
    exact (steps_succ hv _).trans (ih hrest)

theorem Reaches.refl (s : State) : Reaches s s := ⟨0, rfl⟩

theorem Reaches.of_step {s t : State} (h : step s = .next t) : Reaches s t := ⟨1, steps_succ h 0⟩

theorem Reaches.trans {s t u : State} (h : Reaches s t) (h' : Reaches t u) : Reaches s u := by
  obtain ⟨j, hj⟩ := h
  obtain ⟨k, hk⟩ := h'
  exact ⟨k + j, steps_add hj hk⟩

/-! ### A pending command until its completion (R67, R253) -/

/-- From `s` to `t` the block is the same but for the error record, which at most takes its first code 2. -/
structure StaysPending (s t : State) : Prop where
  block : t.block = { s.block with errCode := t.errCode, errInfo := t.errInfo }
  record : (t.errCode = s.errCode ∧ t.errInfo = s.errInfo) ∨ (s.errCode = 0 ∧ t.errCode = 2)

theorem StaysPending.of_block {s t : State} (h : t.block = s.block) : StaysPending s t := by
  have hcode : t.block.errCode = s.block.errCode := congrArg State.errCode h
  have hinfo : t.block.errInfo = s.block.errInfo := congrArg State.errInfo h
  refine ⟨?_, .inl ⟨hcode, hinfo⟩⟩
  change t.block = { s.block with errCode := t.block.errCode, errInfo := t.block.errInfo }
  rw [h]

theorem StaysPending.trans {s t u : State} (h : StaysPending s t) (h' : StaysPending t u) : StaysPending s u := by
  refine ⟨by rw [h'.block, h.block], ?_⟩
  obtain ⟨hcode, hinfo⟩ | ⟨h0, h2⟩ := h.record
  · rw [← hcode, ← hinfo]
    exact h'.record
  · obtain ⟨hcode, -⟩ | ⟨h0', -⟩ := h'.record
    · exact .inr ⟨h0, hcode.trans h2⟩
    · exact absurd (h2.symm.trans h0') (by decide)

theorem StaysPending.pending_eq {s t : State} (h : StaysPending s t) :
    t.lost = s.lost ∧ t.busy = s.busy ∧ t.pend = s.pend :=
  ⟨(congrArg State.lost h.block :), (congrArg State.busy h.block :), (congrArg State.pend h.block :)⟩

/-- No act of the host but a reset or a loss of power disturbs a pending command. -/
theorem hostDoes_staysPending {engine : Bool} {a : HostAct} {s t : State} (h : hostDoes engine a s = .next t)
    (hb : s.busy = true) (hpower : a ≠ .powerCycle) (hreset : a.isReset = false) : StaysPending s t := by
  cases a with
  | read off width =>
    cases h
    exact .of_block (busRead_block off width s)
  | write off width v =>
    have hno {p : Prop} (hidle : s.busy = false) : p := absurd (hidle.symm.trans hb) Bool.false_ne_true
    cases busWrite_outcome h with
    | faulted | ignored => exact .of_block rfl
    | recorded e info _ _ he _ hbusy =>
      obtain rfl := hbusy.2 hb
      exact ⟨rfl, .inr ⟨he, rfl⟩⟩
    | operand _ _ hidle => exact hno hidle
    | accepted _ _ hs => exact hno hs.idle
    | completed _ _ hs => exact hno hs.idle
  | wait | releaseRst =>
    cases h
    exact .of_block rfl
  | reset | assertRst => cases hreset
  | powerCycle => exact absurd rfl hpower

/-- The completion after the wait is the completion before it, but for the error record. -/
theorem StaysPending.completeEffect {s t : State} (h : StaysPending s t) (i : Instr) :
    (complete (effectOf i) t).block =
      { (complete (effectOf i) s).block with errCode := t.errCode, errInfo := t.errInfo } := by
  have hblock : t.block = State.block { s with errCode := t.errCode, errInfo := t.errInfo } := h.block
  rw [completeEffect_block_congr i hblock, complete, effectOf_errorRecord]
  rfl

/-- The host's acts `done` hold an event on `RST` that resets the block, or a loss of power. -/
def DisturbsBlock (done : List HostAct) : Prop := ∃ a ∈ done, a = .powerCycle ∨ a.isReset = true

/-- Within `n` steps the pending command `i` has completed, undisturbed but for dropped writes, or the host has
disturbed the block. -/
def CompletesWithin (n : Nat) (i : Instr) (s : State) : Prop :=
  ∃ k t done, k ≤ n ∧ steps k s = .next t ∧ s.host = done ++ t.host ∧
    ((∃ u, StaysPending s u ∧ t.block = (complete (effectOf i) u).block) ∨ DisturbsBlock done)

theorem completesWithin_of_engine {i : Instr} {s : State} (hpend : s.pend = encode i) (hc : engineCompletes s = true)
    (n : Nat) : CompletesWithin (n + 1) i s := by
  have hstep := (step_engine hc).trans (completePending_of_pend ((takeTurn_pend s).trans hpend))
  refine ⟨1, _, [], Nat.le_add_left 1 n, steps_succ hstep 0, by simp, .inl ⟨s, .of_block rfl, ?_⟩⟩
  exact completeEffect_block_congr i (takeTurn_block s)

@[simp] theorem setOperand_env (r : RegName) (v : Word) (s : State) : (setOperand r v s).env = s.env := by
  cases r <;> rfl

/-- Only a step's turn is taken off the list of turns. -/
theorem hostDoes_env {engine : Bool} {a : HostAct} {s t : State} (h : hostDoes engine a s = .next t) :
    t.env = s.env := by
  cases a with
  | read off width =>
    cases h
    exact busRead_env off width s
  | write off width v =>
    cases busWrite_outcome h with
    | operand => exact setOperand_env _ v s
    | completed i => simp
    | _ => rfl
  | _ =>
    cases h
    rfl

/-- A step of the host while a command is pending disturbs the block, or leaves it pending with one turn less. -/
theorem step_host_pending {s : State} (hb : s.busy = true) (hc : engineCompletes s = false) :
    ∃ u, step s = .next u ∧ ((∃ done, s.host = done ++ u.host ∧ DisturbsBlock done) ∨
      (StaysPending s u ∧ u.env.length = s.env.length - 1)) := by
  cases hhost : s.host with
  | nil =>
    exact ⟨_, step_idle hhost hc, .inr ⟨.of_block (takeTurn_block s), takeTurn_env_length s⟩⟩
  | cons a rest =>
    obtain ⟨u, hu⟩ := hostDoes_next (engineActs s) a (beginAct s rest)
    refine ⟨u, (step_act hhost hc).trans hu, ?_⟩
    by_cases hdisturbs : a = .powerCycle ∨ a.isReset = true
    · obtain hrest | ⟨rfl, -⟩ := hostDoes_host hu
      · exact .inl ⟨[a], by rw [hrest]; rfl, a, List.mem_singleton_self a, hdisturbs⟩
      · exact absurd hdisturbs (by decide)
    · obtain ⟨hpower, hreset⟩ := not_or.1 hdisturbs
      have hstays := hostDoes_staysPending hu ((beginAct_busy s rest).trans hb) hpower
        (Bool.eq_false_of_not_eq_true hreset)
      refine .inr ⟨(StaysPending.of_block (beginAct_block s rest)).trans hstays, ?_⟩
      rw [hostDoes_env hu]
      exact takeTurn_env_length s

theorem completesWithin_turns {i : Instr} {s : State} (hlost : s.lost = false) (hb : s.busy = true)
    (hpend : s.pend = encode i) : CompletesWithin (s.env.length + 1) i s := by
  induction henv : s.env.length generalizing s with
  | zero =>
    have hengine := engineActs_of_nil s (List.length_eq_zero_iff.1 henv)
    exact completesWithin_of_engine hpend ((engineCompletes_iff s).2 ⟨hb, hengine, hlost⟩) 0
  | succ n ih =>
    cases hc : engineCompletes s with
    | true => exact completesWithin_of_engine hpend hc (n + 1)
    | false =>
      obtain ⟨u, hu, ⟨done, hhost, hdisturbs⟩ | ⟨hstays, hturns⟩⟩ := step_host_pending hb hc
      · exact ⟨1, u, done, by omega, steps_succ hu 0, hhost, .inr hdisturbs⟩
      · obtain ⟨hlost', hb', hpend'⟩ := hstays.pending_eq
        obtain ⟨k, t, done, hk, ht, hhost, hend⟩ :=
          ih (hlost'.trans hlost) (hb'.trans hb) (hpend'.trans hpend) (by omega)
        obtain ⟨earlier, hearlier⟩ := step_host hu
        refine ⟨k + 1, t, earlier ++ done, by omega, (steps_succ hu k).trans ht, ?_, ?_⟩
        · rw [List.append_assoc, ← hhost, hearlier]
        · obtain ⟨v, hv, htblock⟩ | ⟨a, ha, hdisturbs⟩ := hend
          · exact .inl ⟨v, hstays.trans hv, htblock⟩
          · exact .inr ⟨a, List.mem_append_right earlier ha, hdisturbs⟩

/-- Settles O51: the completion's visible registers, with the error record as the wait left it. -/
theorem pendingCommandsComplete : Obligations.PendingCommandsComplete := by
  intro s i hlost hb hpend
  obtain ⟨k, t, done, hk, ht, hhost, ⟨u, hu, hblock⟩ | hdisturbs⟩ := completesWithin_turns hlost hb hpend
  · have hcode : t.block.errCode = u.errCode := (congrArg State.errCode hblock).trans (effectOf_errCode i u)
    have hinfo : t.block.errInfo = u.errInfo := (congrArg State.errInfo hblock).trans (effectOf_errInfo i u)
    have hrecord := hu.record
    refine ⟨k, t, done, hk, ht, hhost, .inl ⟨congrArg State.busy hblock, ?_, ?_⟩⟩
    · rw [hu.completeEffect i, ← hcode, ← hinfo] at hblock
      exact visible_of_block_eq hblock
    · rw [← hcode, ← hinfo] at hrecord
      exact hrecord
  · exact ⟨k, t, done, hk, ht, hhost, .inr hdisturbs⟩

end Sys2Proof.Machine
end

section
namespace Sys2Proof.Machine

/-! ### What a program can tell of a state -/

/-- A block that serves with no command pending. -/
abbrev State.Idle (s : State) : Prop := s.serves = true ∧ s.busy = false

/-- What a program leaves and reads: the visible registers, the level of `RST` and the words read. -/
def State.shown (s : State) : State := { s.visible with rst := s.rst, reads := s.reads }

theorem shown_of_block_eq {s t : State} (hblock : t.block = s.block) (hrst : t.rst = s.rst)
    (hreads : t.reads = s.reads) : t.shown = s.shown := by
  rw [State.shown, State.shown, visible_of_block_eq hblock, hrst, hreads]

theorem visible_of_shown_eq {s t : State} (h : t.shown = s.shown) : t.visible = s.visible :=
  congrArg (fun u : State => { u with rst := false, reads := [] }) h

theorem reads_of_shown_eq {s t : State} (h : t.shown = s.shown) : t.reads = s.reads := (congrArg State.reads h :)

theorem State.Idle.of_shown_eq {s t : State} (hs : s.Idle) (h : t.shown = s.shown) : t.Idle := by
  obtain ⟨hserves, hb⟩ := hs
  have hserves' : t.serves = s.serves := (congrArg State.serves h :)
  have hb' : t.busy = s.busy := (congrArg State.busy h :)
  exact ⟨hserves'.trans hserves, hb'.trans hb⟩

theorem beginAct_shown (s : State) (rest : List HostAct) : (beginAct s rest).shown = s.shown :=
  shown_of_block_eq (beginAct_block s rest) (beginAct_rst s rest) (beginAct_reads s rest)

theorem State.Idle.beginAct {s : State} (hs : s.Idle) (rest : List HostAct) : (beginAct s rest).Idle :=
  hs.of_shown_eq (beginAct_shown s rest)

theorem State.Idle.serves {s : State} (hs : s.Idle) : s.serves = true := hs.1

theorem State.Idle.notBusy {s : State} (hs : s.Idle) : s.busy = false := hs.2

theorem State.Ready.toIdle {s : State} (hs : s.Ready) : s.Idle := ⟨hs.serves, hs.idle⟩

theorem State.Idle.toReady {s : State} (hs : s.Idle) (he : s.errCode = 0) : s.Ready := ⟨hs.serves, hs.notBusy, he⟩

/-! ### A command is a matter of what is shown, and of `TIME_S` for `SEED_TIME` (R73, R125) -/

theorem complete_shown (k : State → State) (s : State) :
    (complete k s).shown = { (k s).shown with busy := false } := rfl

theorem accept_shown (i : Instr) (s : State) : (accept i s).shown = { s.shown with busy := true } := rfl

/-- Every effect but `SEED_TIME`'s, which reads the hidden `PEND_T`, reads and writes what is shown alone. -/
theorem effectOf_shown {i : Instr} (hi : i ≠ .seedTime) (s : State) : (effectOf i s).shown = effectOf i s.shown := by
  cases i with
  | seedTime => exact absurd rfl hi
  | _ => rfl

section
variable {i : Instr} {s s' : State} (h : s.shown = s'.shown) (htime : i = .seedTime → s.timeS = s'.timeS)
include h htime

theorem checkOf_shown_congr : checkOf i s = checkOf i s' := by
  have hcheck := congrArg (checkOf i) h
  cases i with
  | seedTime => simp [checkOf, checkSeedTime, htime rfl]
  | _ => exact hcheck

theorem accepted_shown_congr :
    (complete (effectOf i) (accept i s)).shown = (complete (effectOf i) (accept i s')).shown := by
  by_cases hi : i = .seedTime
  · subst hi
    exact congrArg₂ (fun (u : State) (d : DWord) =>
      { u with state := BitVec.ofNat 32 d.toNat, ctr := 0, seeded := true, busy := false }) h (htime rfl)
  · rw [complete_shown, complete_shown, effectOf_shown hi, effectOf_shown hi, accept_shown, accept_shown, h]

/-- From two idle blocks that show the same, a command leads to two states that show the same. -/
theorem execTo_shown_congr (hs : s.Idle) : (execTo s i).shown = (execTo s' i).shown := by
  have hs' : s'.Idle := hs.of_shown_eq h.symm
  have hcode : s.errCode = s'.errCode := (congrArg State.errCode h :)
  by_cases he : s.errCode = 0
  · have hready := hs.toReady he
    have hready' := hs'.toReady (hcode ▸ he)
    have hcheck := checkOf_shown_congr h htime
    cases hc : checkOf i s with
    | none =>
      rw [execTo_accepted i s hready hc, execTo_accepted i s' hready' (hcheck ▸ hc)]
      exact accepted_shown_congr h htime
    | some e =>
      rw [execTo_rejected i s e hready hc, execTo_rejected i s' e hready' (hcheck ▸ hc)]
      exact congrArg (fun u : State => { u with errCode := e.bits, errInfo := encode i }) h
  · rw [execTo_errored i s he, execTo_errored i s' (hcode ▸ he), h]

end

/-- A command as a whole leaves an idle block idle, and does not move the host. -/
theorem execTo_idle {i : Instr} {s : State} (hs : s.Idle) : (execTo s i).Idle ∧ (execTo s i).host = s.host := by
  obtain ⟨-, ht⟩ | ⟨-, hb, -⟩ | ⟨-, -, -, ht⟩ | ⟨-, -, -, e, -, ht⟩ | ⟨-, -, -, -, ht⟩ :=
    present_cases i (checkOf i) (complete (effectOf i)) s
  · rw [execTo, ht]
    exact ⟨hs, rfl⟩
  · exact absurd (hs.notBusy.symm.trans hb) Bool.false_ne_true
  · rw [execTo, ht]
    exact ⟨hs, rfl⟩
  · rw [execTo, ht]
    exact ⟨hs, rfl⟩
  · rw [execTo, ht]
    exact ⟨⟨by simpa using hs.serves, rfl⟩, by simp⟩

/-! ### `WAIT` (R72) -/

theorem step_wait_idle {s : State} {rest : List HostAct} (hs : s.Idle) (hhost : s.host = .wait :: rest) :
    step s = .next (beginAct s rest) := by
  have hact := hs.beginAct rest
  rw [step_act hhost (engineCompletes_of_idle hs.notBusy), hostDoes,
    pollBusy_done _ (.inr ⟨lost_of_serves hact.serves, hact.notBusy⟩)]

theorem reaches_wait_idle {s : State} {rest : List HostAct} (hs : s.Idle) (hhost : s.host = .wait :: rest) :
    ∃ t, Reaches s t ∧ t.host = rest ∧ t.shown = s.shown :=
  ⟨_, .of_step (step_wait_idle hs hhost), rfl, beginAct_shown s rest⟩

theorem completeEffect_shown_congr (i : Instr) {s t : State} (hblock : t.block = s.block) (hrst : t.rst = s.rst)
    (hreads : t.reads = s.reads) : (complete (effectOf i) t).shown = (complete (effectOf i) s).shown :=
  shown_of_block_eq (completeEffect_block_congr i hblock) (by simp [hrst]) (by simp [hreads])

theorem reaches_wait_completion {i : Instr} {s : State} {rest : List HostAct} (hserves : s.serves = true)
    (hpend : s.pend = encode i) (hhost : s.host = .wait :: rest) (hc : engineCompletes s = true) :
    ∃ t, Reaches s t ∧ t.host = rest ∧ t.shown = (complete (effectOf i) s).shown := by
  have hstep := (step_engine hc).trans (completePending_of_pend ((takeTurn_pend s).trans hpend))
  obtain ⟨t, ht, hthost, htshown⟩ := reaches_wait_idle (s := complete (effectOf i) (takeTurn s)) (rest := rest)
    ⟨by simpa using hserves, rfl⟩ (by simpa using hhost)
  exact ⟨t, (Reaches.of_step hstep).trans ht, hthost, htshown.trans
    (completeEffect_shown_congr i (takeTurn_block s) (takeTurn_rst s) (takeTurn_reads s))⟩

/-- A `WAIT` with a command pending lasts until the engine's turn, and is done after the completion. -/
theorem reaches_wait_pending {i : Instr} {s : State} {rest : List HostAct} (hserves : s.serves = true)
    (hb : s.busy = true) (hpend : s.pend = encode i) (hhost : s.host = .wait :: rest) :
    ∃ t, Reaches s t ∧ t.host = rest ∧ t.shown = (complete (effectOf i) s).shown := by
  induction henv : s.env.length generalizing s with
  | zero =>
    have hengine := engineActs_of_nil s (List.length_eq_zero_iff.1 henv)
    have hc := (engineCompletes_iff s).2 ⟨hb, hengine, lost_of_serves hserves⟩
    exact reaches_wait_completion hserves hpend hhost hc
  | succ n ih =>
    cases hc : engineCompletes s with
    | true => exact reaches_wait_completion hserves hpend hhost hc
    | false =>
      have hstep : step s = .next { beginAct s rest with host := .wait :: rest } := by
        rw [step_act hhost hc, hostDoes,
          pollBusy_waits _ ((beginAct_serves s rest).trans hserves) ((beginAct_busy s rest).trans hb), beginAct_host]
      have hturns := takeTurn_env_length s
      obtain ⟨t, ht, hthost, htshown⟩ := ih (s := { beginAct s rest with host := .wait :: rest })
        ((beginAct_serves s rest).trans hserves) ((beginAct_busy s rest).trans hb)
        ((takeTurn_pend s).trans hpend) rfl (hturns.trans (by omega))
      exact ⟨t, (Reaches.of_step hstep).trans ht, hthost,
        htshown.trans (completeEffect_shown_congr i (beginAct_block s rest) (beginAct_rst s rest)
          (beginAct_reads s rest))⟩

/-- A command written by an idle block's host and waited for: whatever the turns, its whole effect. -/
theorem reaches_command {i : Instr} {s : State} {rest : List HostAct} (hs : s.Idle)
    (hhost : s.host = actsRun i ++ rest) :
    ∃ t, Reaches s t ∧ t.host = rest ∧ t.shown = (execTo (takeTurn s) i).shown := by
  obtain ⟨hruns, haccepts⟩ := stepRunsTheDecodedCommand s (encode i) i (.wait :: rest) hhost (decode_encode i)
    (engineCompletes_of_idle hs.notBusy)
  change engineActs s = true ∨ s.busy = true → step s = exec i (beginAct s (.wait :: rest)) at hruns
  change engineActs s = false → step s = .next (acceptOnly i (beginAct s (.wait :: rest))) at haccepts
  have hidle := hs.beginAct (.wait :: rest)
  have hshown : (execTo (beginAct s (.wait :: rest)) i).shown = (execTo (takeTurn s) i).shown :=
    execTo_shown_congr (shown_of_block_eq rfl rfl rfl) (fun _ => rfl) hidle
  obtain ⟨hcompletes, hrejects, hpends⟩ := acceptThenCompleteIsExec i (beginAct s (.wait :: rest)) hidle.notBusy
  -- Whole at once, or done with at acceptance: the `WAIT` finds no command pending.
  have hwhole (h : step s = .next (execTo (beginAct s (.wait :: rest)) i)) :
      ∃ t, Reaches s t ∧ t.host = rest ∧ t.shown = (execTo (takeTurn s) i).shown := by
    obtain ⟨hidle', hhost'⟩ := execTo_idle (i := i) hidle
    obtain ⟨t, ht, hthost, htshown⟩ := reaches_wait_idle hidle' hhost'
    exact ⟨t, (Reaches.of_step h).trans ht, hthost, htshown.trans hshown⟩
  cases hengine : engineActs s with
  | true => exact hwhole ((hruns (.inl hengine)).trans (exec_eq_execTo i _))
  | false =>
    cases hb : (acceptOnly i (beginAct s (.wait :: rest))).busy with
    | false => exact hwhole ((haccepts hengine).trans ((hrejects hb).symm.trans (exec_eq_execTo i _)))
    | true =>
      have hpend := hpends hb
      obtain ⟨t, ht, hthost, htshown⟩ := reaches_wait_pending (i := i) (rest := rest)
        (s := acceptOnly i (beginAct s (.wait :: rest))) (by rw [hpend]; exact hidle.serves) hb (by rw [hpend])
        (by rw [hpend]; rfl)
      have hdone : complete (effectOf i) (acceptOnly i (beginAct s (.wait :: rest))) =
          execTo (beginAct s (.wait :: rest)) i :=
        Host.Outcome.next.inj ((completePending_of_pend (by rw [hpend])).symm.trans
          ((hcompletes hb).trans (exec_eq_execTo i _)))
      exact ⟨t, (Reaches.of_step (haccepts hengine)).trans ht, hthost, htshown.trans (hdone ▸ hshown)⟩

/-- Settles O52: a poll of an idle block is done, and so is the `WAIT` after the command's completion. -/
theorem waitMakesEffectsVisible : Obligations.WaitMakesEffectsVisible := by
  refine ⟨fun s rest h hb hhost => step_wait_idle ⟨h, hb⟩ hhost, fun s i rest h hb hhost => ?_⟩
  obtain ⟨t, ⟨k, hk⟩, hthost, htshown⟩ := reaches_command (i := i) ⟨h, hb⟩ hhost
  have hturn : (takeTurn s).Idle := ⟨(takeTurn_serves s).trans h, (takeTurn_busy s).trans hb⟩
  obtain ⟨hdone, -⟩ := execTo_idle (i := i) hturn
  obtain ⟨hserves, hidle⟩ := hdone.of_shown_eq htshown
  exact ⟨k, t, _, hk, exec_eq_execTo i _, hthost, hidle, hserves, visible_of_shown_eq htshown⟩

end Sys2Proof.Machine
end

section
namespace Sys2Proof.Machine

/-! ### Host programs whose outcome the turns do not matter to (R73, R103) -/

/-- A piece of a host program that starts and ends with no command pending. -/
inductive Piece where
  /-- A command and its `WAIT`. -/
  | run (i : Instr)
  /-- A write of an operand word. -/
  | operand (r : RegName) (v : Word)
  | read (r : RegName)
  | reset

def Piece.acts : Piece → List HostAct
  | .run i => actsRun i
  | .operand r v => [.write r.offset 32 v]
  | .read r => [actRd r]
  | .reset => [.reset]

/-- What a piece does to the block and to the words read. -/
def Piece.effect : Piece → State → State
  | .run i, s => execTo s i
  | .operand r v, s => setOperand r v s
  | .read r, s => { s with reads := regContent r s :: s.reads }
  | .reset, s => { resetBlock s with rst := false }

/-- The piece is of a kind the turns do not matter to: no `SEED_TIME`, and operand words only where it says so. -/
def Piece.Timeless : Piece → Prop
  | .run i => i ≠ .seedTime
  | .operand r _ => r ∈ writableWords ∧ r ≠ .cmd
  | .read _ | .reset => True

theorem setOperand_shown (r : RegName) (v : Word) (s : State) : (setOperand r v s).shown = setOperand r v s.shown := by
  cases r <;> rfl

theorem regContent_shown (r : RegName) (s : State) : regContent r s.shown = regContent r s := by
  cases r <;> rfl

/-- What a piece leaves to be seen is a matter of what was seen. -/
theorem Piece.effect_shown_congr {p : Piece} {s s' : State} (hp : p.Timeless) (hs : s.Idle) (h : s.shown = s'.shown) :
    (p.effect s).shown = (p.effect s').shown := by
  cases p with
  | run i => exact execTo_shown_congr h (fun hi => absurd hi hp) hs
  | operand r v => rw [effect, setOperand_shown, h, ← setOperand_shown]; rfl
  | read r =>
    have hread (u : State) : (effect (.read r) u).shown = effect (.read r) u.shown := by
      rw [effect, effect, regContent_shown]; rfl
    rw [hread, hread, h]
  | reset => exact congrArg (fun u : State => { State.reset.shown with reads := u.reads }) h

theorem Piece.effect_idle {p : Piece} {s : State} (hs : s.Idle) : (p.effect s).Idle := by
  cases p with
  | run i =>
    obtain ⟨hidle, -⟩ := execTo_idle (i := i) hs
    exact hidle
  | operand r v => cases r <;> exact hs
  | read r => exact hs
  | reset => exact ⟨rfl, rfl⟩

/-- An idle block's host does a piece, whatever the turns are. -/
theorem Piece.reaches {p : Piece} {s : State} {rest : List HostAct} (hp : p.Timeless) (hs : s.Idle)
    (hhost : s.host = p.acts ++ rest) : ∃ t, Reaches s t ∧ t.host = rest ∧ t.shown = (p.effect s).shown := by
  obtain ⟨hserves, hb⟩ := hs
  have hact {a : HostAct} (ha : s.host = a :: rest) : step s = hostDoes (engineActs s) a (beginAct s rest) :=
    step_act ha (engineCompletes_of_idle hb)
  cases p with
  | run i =>
    obtain ⟨t, ht, hthost, htshown⟩ := reaches_command ⟨hserves, hb⟩ hhost
    refine ⟨t, ht, hthost, htshown.trans (execTo_shown_congr ?_ (fun hi => absurd hi hp) ?_)⟩
    · exact shown_of_block_eq (takeTurn_block s) (takeTurn_rst s) (takeTurn_reads s)
    · exact ⟨(takeTurn_serves s).trans hserves, (takeTurn_busy s).trans hb⟩
  | operand r v =>
    obtain ⟨hr, hcmd⟩ := hp
    have hstep := (hact hhost).trans (busWrite_operand _ r v _ ((beginAct_serves s rest).trans hserves)
      ((beginAct_busy s rest).trans hb) hr hcmd)
    refine ⟨_, .of_step hstep, setOperand_host r v _, ?_⟩
    rw [setOperand_shown, beginAct_shown, ← setOperand_shown]
    rfl
  | read r =>
    obtain ⟨t, ht, hthost, htreads, htblock, htserves, -⟩ := step_read_idle_keeps hserves hb hhost
    refine ⟨t, .of_step ht, hthost, shown_of_block_eq htblock ?_ htreads⟩
    exact (rst_of_serves htserves).trans (rst_of_serves hserves).symm
  | reset =>
    refine ⟨_, .of_step (hact hhost), rfl, ?_⟩
    exact congrArg (fun u : State => { State.reset.shown with reads := u.reads }) (beginAct_shown s rest)

def runPieces (ps : List Piece) (s : State) : State := ps.foldl (fun s p => p.effect s) s

theorem runPieces_shown_congr {ps : List Piece} {s s' : State} (hps : ∀ p ∈ ps, p.Timeless) (hs : s.Idle)
    (h : s.shown = s'.shown) : (runPieces ps s).shown = (runPieces ps s').shown := by
  induction ps generalizing s s' with
  | nil => exact h
  | cons p ps ih =>
    rw [List.forall_mem_cons] at hps
    obtain ⟨hp, hrest⟩ := hps
    exact ih hrest (Piece.effect_idle hs) (Piece.effect_shown_congr hp hs h)

/-- An idle block's host does its pieces one after the other, whatever the turns are. -/
theorem reaches_pieces {ps : List Piece} {s : State} {rest : List HostAct} (hps : ∀ p ∈ ps, p.Timeless) (hs : s.Idle)
    (hhost : s.host = ps.flatMap Piece.acts ++ rest) :
    ∃ t, Reaches s t ∧ t.host = rest ∧ t.Idle ∧ t.shown = (runPieces ps s).shown := by
  induction ps generalizing s with
  | nil => exact ⟨s, .refl s, hhost, hs, rfl⟩
  | cons p ps ih =>
    rw [List.forall_mem_cons] at hps
    obtain ⟨hp, hrest⟩ := hps
    rw [List.flatMap_cons, List.append_assoc] at hhost
    obtain ⟨u, hu, huhost, hushown⟩ := Piece.reaches hp hs hhost
    have huidle : u.Idle := (Piece.effect_idle hs).of_shown_eq hushown
    obtain ⟨t, ht, hthost, htidle, htshown⟩ := ih hrest huidle huhost
    exact ⟨t, hu.trans ht, hthost, htidle, htshown.trans (runPieces_shown_congr hrest huidle hushown)⟩

/-! ### The public operations in pieces (R102, R103) -/

def SeedForm.pieces : SeedForm → List Piece
  | .integer v =>
    [.operand .seedLo (loHalf (BitVec.ofInt 64 v)), .operand .seedHi (hiHalf (BitVec.ofInt 64 v)), .run .seedInt]
  | .clock => [.run .seedTime]
  | .text bytes => .run .hashStart :: (bytes.map fun b => .run (.hashByte b)) ++ [.run .seedHash]

def nextBytePieces (readable : Bool) : List Piece := [.run (.nextByte readable), .read .resultLo]

def PublicOp.pieces : PublicOp → List Piece
  | .construct seed => .reset :: seed.pieces
  | .reseed seed => seed.pieces
  | .nextInt lo hi =>
    [.operand .min (BitVec.ofInt 32 lo), .operand .max (BitVec.ofInt 32 hi), .run .nextInt, .read .resultLo,
      .read .resultHi]
  | .nextBytes length readable => (List.replicate length (nextBytePieces readable)).flatten
  | .saveStatus => [.run .save]
  | .restoreStatus => [.run .restore]

theorem SeedForm.acts_eq (seed : SeedForm) : actsSeed seed = seed.pieces.flatMap Piece.acts := by
  cases seed with
  | integer v => rfl
  | clock => rfl
  | text bytes =>
    simp [actsSeed, actsSeedText, actsHash, SeedForm.pieces, Piece.acts, List.flatMap_map, List.flatMap_append]

theorem actsNextBytes_eq (n : Nat) (readable : Bool) :
    actsNextBytes n readable = ((List.replicate n (nextBytePieces readable)).flatten).flatMap Piece.acts := by
  induction n with
  | zero => rfl
  | succ n ih => rw [List.replicate_succ, List.flatten_cons, List.flatMap_append, ← ih]; rfl

theorem PublicOp.acts_eq (op : PublicOp) : op.acts = op.pieces.flatMap Piece.acts := by
  cases op with
  | construct seed => exact congrArg (HostAct.reset :: ·) seed.acts_eq
  | reseed seed => exact seed.acts_eq
  | nextInt lo hi => rfl
  | nextBytes length readable => exact actsNextBytes_eq length readable
  | saveStatus | restoreStatus => rfl

theorem SeedForm.timeless {seed : SeedForm} (h : seed ≠ .clock) : ∀ p ∈ seed.pieces, p.Timeless := by
  cases seed with
  | clock => exact absurd rfl h
  | integer v => simp [SeedForm.pieces, Piece.Timeless, writableWords]
  | text bytes =>
    intro p hp
    simp only [SeedForm.pieces, List.cons_append, List.mem_cons, List.mem_append, List.mem_map, List.not_mem_nil,
      or_false] at hp
    obtain rfl | ⟨b, -, rfl⟩ | rfl := hp <;> exact nofun

theorem nextBytePieces_timeless (readable : Bool) : ∀ p ∈ nextBytePieces readable, p.Timeless := by
  simp [nextBytePieces, Piece.Timeless]

theorem PublicOp.timeless {op : PublicOp} (hconstruct : op ≠ .construct .clock) (hreseed : op ≠ .reseed .clock) :
    ∀ p ∈ op.pieces, p.Timeless := by
  cases op with
  | construct seed =>
    exact List.forall_mem_cons.2 ⟨trivial, SeedForm.timeless fun h => hconstruct (h ▸ rfl)⟩
  | reseed seed => exact SeedForm.timeless fun h => hreseed (h ▸ rfl)
  | nextInt lo hi => simp [PublicOp.pieces, Piece.Timeless, writableWords]
  | nextBytes length readable =>
    intro p hp
    obtain ⟨round, hround, hp⟩ := List.mem_flatten.1 hp
    exact nextBytePieces_timeless readable p (List.eq_of_mem_replicate hround ▸ hp)
  | saveStatus | restoreStatus => simp [PublicOp.pieces, Piece.Timeless]

/-- Settles O53: both runs do the same pieces, from states that show the same. -/
theorem outcomeIgnoresLatency : Obligations.OutcomeIgnoresLatency := by
  intro s ops e e' hserves hb hconstruct hreseed hhost
  have hacts : ops.flatMap PublicOp.acts = (ops.flatMap PublicOp.pieces).flatMap Piece.acts ++ [] := by
    rw [List.append_nil, List.flatMap_assoc]
    exact congrArg (ops.flatMap ·) (funext PublicOp.acts_eq)
  have htimeless : ∀ p ∈ ops.flatMap PublicOp.pieces, p.Timeless := fun p hp => by
    obtain ⟨op, hop, hp⟩ := List.mem_flatMap.1 hp
    exact PublicOp.timeless (fun h => hconstruct (h ▸ hop)) (fun h => hreseed (h ▸ hop)) p hp
  have hrun (env : List Turn) := reaches_pieces (s := { s with env := env }) (rest := []) htimeless ⟨hserves, hb⟩
    (hhost.trans hacts)
  obtain ⟨t, ⟨k, hk⟩, hthost, ⟨-, htidle⟩, htshown⟩ := hrun e
  obtain ⟨t', ⟨k', hk'⟩, hthost', ⟨-, htidle'⟩, htshown'⟩ := hrun e'
  have hstart :=
    runPieces_shown_congr (s := { s with env := e }) (s' := { s with env := e' }) htimeless ⟨hserves, hb⟩ rfl
  have hsame : t.shown = t'.shown := htshown.trans (hstart.trans htshown'.symm)
  exact ⟨k, k', t, t', hk, hk', hthost, hthost', htidle, htidle', visible_of_shown_eq hsame, reads_of_shown_eq hsame⟩

/-! ### Construction from any state of the invariant (R244) -/

/-- A reset is the host's next act: a pending command may complete first, then the block is idle at its reset values. -/
theorem reaches_reset {s : State} {rest : List HostAct} (hs : s.Inv) (hhost : s.host = .reset :: rest) :
    ∃ t, Reaches s t ∧ t.host = rest ∧ t.Idle ∧ t.block = State.reset.block := by
  have hreset {u : State} (hc : engineCompletes u = false) (hu : u.host = .reset :: rest) :
      ∃ t, Reaches u t ∧ t.host = rest ∧ t.Idle ∧ t.block = State.reset.block :=
    ⟨_, .of_step (step_act hu hc), rfl, ⟨rfl, rfl⟩, rfl⟩
  cases hc : engineCompletes s with
  | false => exact hreset hc hhost
  | true =>
    obtain ⟨hb, -, hlost⟩ := (engineCompletes_iff s).1 hc
    obtain ⟨i, hpend, -⟩ := exists_pending_of_inv hs hlost hb
    obtain ⟨u, hu, hub, huhost, -, -⟩ := engineCompletesThePendingCommand s i hc hpend
    obtain ⟨t, ht, hend⟩ := hreset (engineCompletes_of_idle hub) (huhost.trans hhost)
    exact ⟨t, (Reaches.of_step hu).trans ht, hend⟩

/-- The two halves of a number written to `SEED_LO` and `SEED_HI` join to it (R64, R102). -/
theorem setOperand_seed (d : DWord) (s : State) :
    setOperand .seedHi (hiHalf d) (setOperand .seedLo (loHalf d) s) = { s with seed := d } := by
  rw [setOperand, setOperand, setHiHalf, loHalf_setLoHalf, hiHalf_append_loHalf]

/-- `SEEDI v` on a block that takes commands: `SEED` holds `v`, and the block is seeded with its absolute value. -/
theorem runPieces_seedInt {s : State} {v : Int} (hs : s.Ready) (hv : v.natAbs < 2 ^ 32) :
    runPieces (SeedForm.integer v).pieces s = { s with
      seed := BitVec.ofInt 64 v, pend := encode .seedInt
      state := BitVec.ofNat 32 v.natAbs, ctr := 0, seeded := true } := by
  have hvalue : (BitVec.ofInt 64 v).toInt = v := BitVec.toInt_ofInt_eq_self (by decide) (by omega) (by omega)
  have hcheck : checkOf .seedInt { s with seed := BitVec.ofInt 64 v } = none := by
    refine if_pos ?_
    rw [seedValue, hvalue]
    exact hv
  have hexec := execTo_of_exec (exec_seeding .seedInt { s with seed := BitVec.ofInt 64 v } rfl hs hcheck)
  change execTo (setOperand .seedHi _ (setOperand .seedLo _ s)) .seedInt = _
  rw [setOperand_seed, hexec, derivedSeed, seedValue, hvalue]
  rfl

/-- Settles O54: after the reset, `SEEDI v` runs on a block at its reset values. -/
theorem constructionYieldsAFreshInstance : Obligations.ConstructionYieldsAFreshInstance := by
  intro s v rest hs hv hhost
  obtain ⟨u, hu, huhost, huidle, hublock⟩ := reaches_reset hs (rest := actsSeedInt v ++ rest) hhost
  have hacts : actsSeedInt v ++ rest = (SeedForm.integer v).pieces.flatMap Piece.acts ++ rest :=
    congrArg (· ++ rest) (SeedForm.integer v).acts_eq
  obtain ⟨t, ht, hthost, -, htshown⟩ :=
    reaches_pieces (SeedForm.timeless (seed := .integer v) nofun) huidle (huhost.trans hacts)
  have hready := State.Idle.toReady huidle (congrArg State.errCode hublock :)
  rw [runPieces_seedInt hready hv] at htshown
  obtain ⟨k, hk⟩ := hu.trans ht
  refine ⟨k, t, hk, hthost, (visible_of_shown_eq htshown).trans ?_⟩
  exact congrArg (fun b : State => { b with
    seed := BitVec.ofInt 64 v, state := BitVec.ofNat 32 v.natAbs, ctr := 0, seeded := true
    pend := 0, pendT := 0 }) hublock

/-! ### `NEXT_BYTES` (R170) -/

/-- The word that a `NEXT_BYTE` leaves in `RESULT_LO` lies in the byte range. -/
def InByteRange (readable : Bool) (w : Word) : Prop :=
  if readable then 32 ≤ w.toNat ∧ w.toNat ≤ 126 else w.toNat ≤ 255

theorem loHalf_byte_inRange {s : Nat} (hs : s < 2 ^ 32) (readable : Bool) :
    InByteRange readable (loHalf (BitVec.ofInt 64 (mapRange s (byteLo readable) (byteHi readable)))) := by
  rw [mapRange_byte hs, InByteRange, loHalf_toNat, BitVec.ofInt_natCast, BitVec.toNat_ofNat]
  cases readable with
  | false =>
    change s / 2 ^ 24 % 2 ^ 64 % 2 ^ 32 ≤ 255
    omega
  | true =>
    have hband : s * 95 / 2 ^ 32 ≤ 94 := by omega
    change 32 ≤ (32 + s * 95 / 2 ^ 32) % 2 ^ 64 % 2 ^ 32 ∧ (32 + s * 95 / 2 ^ 32) % 2 ^ 64 % 2 ^ 32 ≤ 126
    generalize s * 95 / 2 ^ 32 = b at hband
    omega

/-- One round: a draw, accepted, and the read of its result. -/
theorem reaches_nextByte {readable : Bool} {s : State} {rest : List HostAct} (hs : s.Ready) (hseeded : s.seeded = true)
    (hroom : s.ctr.toNat + 1 < 2 ^ 64) (hhost : s.host = actsNextByte readable ++ rest) :
    ∃ t w, Reaches s t ∧ t.host = rest ∧ t.Ready ∧ t.seeded = true ∧ t.ctr.toNat = s.ctr.toNat + 1 ∧
      t.reads = w :: s.reads ∧ InByteRange readable w := by
  have hcheck : checkOf (.nextByte readable) s = none := checkOf_draw rfl hseeded nofun (by omega)
  obtain ⟨t, ht, hthost, ⟨htserves, htidle⟩, htshown⟩ :=
    reaches_pieces (nextBytePieces_timeless readable) (State.Ready.toIdle hs) hhost
  have hdraw := execTo_of_exec (exec_draw (.nextByte readable) s rfl hs hcheck)
  change t.shown = (Piece.effect (.read .resultLo) (execTo s (.nextByte readable))).shown at htshown
  rw [hdraw] at htshown
  have hctr : t.ctr = BitVec.ofNat 64 (s.ctr.toNat + 1) := (congrArg State.ctr htshown :)
  refine ⟨t, _, ht, hthost, ⟨htserves, htidle, ?_⟩, ?_, ?_, (congrArg State.reads htshown :), ?_⟩
  · exact (congrArg State.errCode htshown :).trans hs.noError
  · exact (congrArg State.seeded htshown :).trans hseeded
  · rw [hctr, BitVec.toNat_ofNat, Nat.mod_eq_of_lt hroom]
  · exact loHalf_byte_inRange (BitVec.isLt _) readable

/-- Settles O55: round by round. -/
theorem nextBytesReturnsBoundedBytes : Obligations.NextBytesReturnsBoundedBytes := by
  intro n readable s rest hs hseeded hroom hhost
  induction n generalizing s with
  | zero => exact ⟨0, s, [], rfl, hhost, hs, rfl, rfl, rfl, fun _ => rfl, nofun⟩
  | succ n ih =>
    rw [actsNextBytes, List.append_assoc] at hhost
    obtain ⟨u, w, hu, huhost, huready, huseeded, huctr, hureads, hw⟩ := reaches_nextByte hs hseeded (by omega) hhost
    obtain ⟨k, t, words, hk, hthost, htready, htctr, htreads, hlength, -, hwords⟩ :=
      ih u huready huseeded (by omega) huhost
    obtain ⟨j, hj⟩ := hu.trans ⟨k, hk⟩
    refine ⟨j, t, words ++ [w], hj, hthost, htready, by omega, ?_, by simp [hlength], nofun, ?_⟩
    · rw [htreads, hureads, List.append_assoc]
      rfl
    · exact List.forall_mem_append.2 ⟨hwords, List.forall_mem_singleton.2 hw⟩

end Sys2Proof.Machine
end
